-- ==== Sys2Proof/Word.lean ====
section
/-! DEFINITION. The word types of the CORE (00_scope.md R6, R8) and the vocabulary of its operands: the 13
addressing modes (40_addressing.md R100) and the operand forms that the resolver functions take (R114 to R117).
They stand here so that Syntax.lean holds the one inductive Instr. -/

namespace Sys2Proof

/-- R6: the data width is 8 bits. -/
abbrev Byte := BitVec 8

/-- R6: the program counter and every address are 16 bits. -/
abbrev Addr := BitVec 16

/-- R100: the closed enumeration of addressing modes, by the tags of 30_encoding.md R81. -/
inductive AddrMode where
  | imm | zp | zpx | zpy | abs | absx | absy | ind | indx | indy | acc | impl | rel
  deriving DecidableEq, Repr

/-- R114: the operand forms that have an effective address, each with its operand field (30_encoding.md R82). -/
inductive MemOperand where
  | zp   (z : Byte)
  | zpx  (z : Byte)
  | zpy  (z : Byte)
  | abs  (a : Addr)
  | absx (a : Addr)
  | absy (a : Addr)
  | ind  (a : Addr)
  | indx (z : Byte)
  | indy (z : Byte)
  deriving DecidableEq, Repr

/-- R115: what a read-type instruction takes its operand M from. -/
inductive Source where
  | imm (n : Byte)
  | mem (m : MemOperand)
  deriving DecidableEq, Repr

/-- R117: what a read-modify-write instruction works on. -/
inductive Target where
  | acc
  | mem (m : MemOperand)
  deriving DecidableEq, Repr

/-- The addressing mode of an effective-address operand. -/
def MemOperand.mode : MemOperand → AddrMode
  | .zp _   => .zp
  | .zpx _  => .zpx
  | .zpy _  => .zpy
  | .abs _  => .abs
  | .absx _ => .absx
  | .absy _ => .absy
  | .ind _  => .ind
  | .indx _ => .indx
  | .indy _ => .indy

def Source.mode : Source → AddrMode
  | .imm _ => .imm
  | .mem m => m.mode

def Target.mode : Target → AddrMode
  | .acc   => .acc
  | .mem m => m.mode

end Sys2Proof
end

