-- ==== Sys2Proof/Syntax.lean ====
section
/-! DEFINITION. The instructions: one constructor for each mnemonic of spec/opcode_table.json (30_encoding.md R84,
R85). A row of the table is a constructor with one of its operand forms; the operand carries the operand bytes
(R81, R82). Which forms a mnemonic has is WellFormed.lean's check. -/

namespace Sys2Proof

inductive Instr where
  -- 41_load_store.md
  | lda (src : Source)
  | ldx (src : Source)
  | ldy (src : Source)
  | sta (dst : MemOperand)
  | stx (dst : MemOperand)
  | sty (dst : MemOperand)
  -- 42_arithmetic.md
  | adc (src : Source)
  | sbc (src : Source)
  -- 43_logic.md
  | and (src : Source)
  | ora (src : Source)
  | eor (src : Source)
  | bit (src : Source)
  -- 44_shift_rotate.md
  | asl (tgt : Target)
  | lsr (tgt : Target)
  | rol (tgt : Target)
  | ror (tgt : Target)
  -- 45_compare.md
  | cmp (src : Source)
  | cpx (src : Source)
  | cpy (src : Source)
  -- 46_branch.md, the operand is the displacement rel8
  | bcc (d : Byte)
  | bcs (d : Byte)
  | beq (d : Byte)
  | bne (d : Byte)
  | bmi (d : Byte)
  | bpl (d : Byte)
  | bvc (d : Byte)
  | bvs (d : Byte)
  -- 47_stack.md
  | pha
  | pla
  | plp
  | php
  -- 48_transfer_incdec.md
  | tax
  | tay
  | tsx
  | txa
  | txs
  | tya
  | inx
  | iny
  | dex
  | dey
  | inc (dst : MemOperand)
  | dec (dst : MemOperand)
  -- 49_flags_control.md
  | clc
  | sec
  | cli
  | sei
  | cld
  | sed
  | clv
  | jmp (tgt : MemOperand)
  | jsr (tgt : Addr)
  | rts
  | brk
  | rti
  | nop
  -- 30_encoding.md R85: the 105 ILLEGAL rows, each with its opcode byte
  | illegal (op : Byte)
  deriving DecidableEq, Repr

end Sys2Proof
end

