-- ==== Sys2Proof/WellFormed.lean ====
section
/-! DEFINITION. Which terms of Instr are instructions: the operand form is one of the modes the instruction's own rule
lists, and an ILLEGAL term carries one of the 105 bytes of 30_encoding.md R85. -/

namespace Sys2Proof

/-- R85: the ILLEGAL opcode bytes, in the rule's order. -/
def illegalBytes : List Byte :=
  [0x02, 0x03, 0x04, 0x07, 0x0B, 0x0C, 0x0F, 0x12, 0x13, 0x14, 0x17, 0x1A, 0x1B, 0x1C, 0x1F] ++
  [0x22, 0x23, 0x27, 0x2B, 0x2F, 0x32, 0x33, 0x34, 0x37, 0x3A, 0x3B, 0x3C, 0x3F] ++
  [0x42, 0x43, 0x44, 0x47, 0x4B, 0x4F, 0x52, 0x53, 0x54, 0x57, 0x5A, 0x5B, 0x5C, 0x5F] ++
  [0x62, 0x63, 0x64, 0x67, 0x6B, 0x6F, 0x72, 0x73, 0x74, 0x77, 0x7A, 0x7B, 0x7C, 0x7F] ++
  [0x80, 0x82, 0x83, 0x87, 0x89, 0x8B, 0x8F, 0x92, 0x93, 0x97, 0x9B, 0x9C, 0x9E, 0x9F] ++
  [0xA3, 0xA7, 0xAB, 0xAF, 0xB2, 0xB3, 0xB7, 0xBB, 0xBF] ++
  [0xC2, 0xC3, 0xC7, 0xCB, 0xCF, 0xD2, 0xD3, 0xD4, 0xD7, 0xDA, 0xDB, 0xDC, 0xDF] ++
  [0xE2, 0xE3, 0xE7, 0xEB, 0xEF, 0xF2, 0xF3, 0xF4, 0xF7, 0xFA, 0xFB, 0xFC, 0xFF]

/-- The modes of LDA, ADC, SBC, AND, ORA, EOR and CMP. -/
def readModes : List AddrMode := [.imm, .zp, .zpx, .abs, .absx, .absy, .indx, .indy]

/-- The memory modes of the shifts, INC and DEC. -/
def modifyModes : List AddrMode := [.zp, .zpx, .abs, .absx]

/-- The term is an instruction of the opcode table. Each line's modes are those of the instruction's rule. -/
def Instr.wellFormed : Instr → Bool
  | .lda s => s.mode ∈ readModes                                  -- R130
  | .ldx s => s.mode ∈ [.imm, .zp, .zpy, .abs, .absy]             -- R131
  | .ldy s => s.mode ∈ [.imm, .zp, .zpx, .abs, .absx]             -- R132
  | .sta m => m.mode ∈ [.zp, .zpx, .abs, .absx, .absy, .indx, .indy]  -- R133
  | .stx m => m.mode ∈ [.zp, .zpy, .abs]                          -- R134
  | .sty m => m.mode ∈ [.zp, .zpx, .abs]                          -- R135
  | .adc s => s.mode ∈ readModes                                  -- R140
  | .sbc s => s.mode ∈ readModes                                  -- R141
  | .and s => s.mode ∈ readModes                                  -- R150
  | .ora s => s.mode ∈ readModes                                  -- R151
  | .eor s => s.mode ∈ readModes                                  -- R152
  | .bit s => s.mode ∈ [.zp, .abs]                                -- R153
  | .asl t => t.mode ∈ .acc :: modifyModes                        -- R160
  | .lsr t => t.mode ∈ .acc :: modifyModes                        -- R161
  | .rol t => t.mode ∈ .acc :: modifyModes                        -- R162
  | .ror t => t.mode ∈ .acc :: modifyModes                        -- R163
  | .cmp s => s.mode ∈ readModes                                  -- R170
  | .cpx s => s.mode ∈ [.imm, .zp, .abs]                          -- R171
  | .cpy s => s.mode ∈ [.imm, .zp, .abs]                          -- R172
  | .bcc _ | .bcs _ | .beq _ | .bne _ | .bmi _ | .bpl _ | .bvc _ | .bvs _ => true   -- R181 to R188
  | .pha | .pla | .plp | .php => true                             -- R201 to R204
  | .tax | .tay | .tsx | .txa | .txs | .tya | .inx | .iny | .dex | .dey => true     -- R210 to R219
  | .inc m => m.mode ∈ modifyModes                                -- R220
  | .dec m => m.mode ∈ modifyModes                                -- R221
  | .clc | .sec | .cli | .sei | .cld | .sed | .clv => true        -- R230 to R236
  | .jmp m => m.mode ∈ [.abs, .ind]                               -- R240
  | .jsr _ => true                                                -- R241
  | .rts | .brk | .rti | .nop => true                             -- R242 to R245
  | .illegal op => op ∈ illegalBytes                              -- R85

end Sys2Proof
end

