-- ==== Sys2Proof/Decode.lean ====
section
/-! DEFINITION. From bytes to an instruction and back. The decoder follows the opcode MATRIX of 30_encoding.md R84
(first table), the encoder the table BY MNEMONIC of the same rule (second table), so that each checks the other. The
byte-order and sign-extension helpers of 00_scope.md R8 stand here too. -/

namespace Sys2Proof

/-! ## Bytes and addresses (R8) -/

/-- R8: `hi:lo`, the concatenation of two bytes. -/
def joinBytes (hi lo : Byte) : Addr := BitVec.ofNat 16 (hi.toNat * 256 + lo.toNat)

/-- `v[15:8]`. -/
def hiByte (v : Addr) : Byte := BitVec.ofNat 8 (v.toNat / 256)

/-- `v[7:0]`. -/
def loByte (v : Addr) : Byte := BitVec.ofNat 8 v.toNat

/-- R8: `zext_16`. -/
def zext16 (b : Byte) : Addr := b.setWidth 16

/-- R8: `sext_16`, that is `b + (b[7] ? 0xFF00 : 0)`. -/
def sext16 (b : Byte) : Addr := b.signExtend 16

/-! ## The opcode table (R83, R84) -/

/-- An entry of TABLE: the instruction an opcode byte stands for, as a function of its operand bytes (R81, R82). -/
inductive OpForm where
  /-- R85: no entry; the byte traps. -/
  | illegal
  /-- No operand byte: implied and accumulator modes. -/
  | bare (i : Instr)
  /-- One operand byte: immediate, zero-page, indirect-indexed and relative modes. -/
  | byte (k : Byte → Instr)
  /-- Two operand bytes, `abs16`: absolute and indirect modes. -/
  | word (k : Addr → Instr)

/-- R87: how many operand bytes follow the opcode. -/
def OpForm.operandBytes : OpForm → Nat
  | .illegal => 0
  | .bare _  => 0
  | .byte _  => 1
  | .word _  => 2

/- The entries of R84's matrix by mode tag; `k` says what the mode's operand is given to. -/

def OpForm.imm (k : Source → Instr) : OpForm := .byte fun n => k (.imm n)
def OpForm.zp (k : MemOperand → Instr) : OpForm := .byte fun z => k (.zp z)
def OpForm.zpx (k : MemOperand → Instr) : OpForm := .byte fun z => k (.zpx z)
def OpForm.zpy (k : MemOperand → Instr) : OpForm := .byte fun z => k (.zpy z)
def OpForm.abs (k : MemOperand → Instr) : OpForm := .word fun a => k (.abs a)
def OpForm.absx (k : MemOperand → Instr) : OpForm := .word fun a => k (.absx a)
def OpForm.absy (k : MemOperand → Instr) : OpForm := .word fun a => k (.absy a)
def OpForm.ind (k : MemOperand → Instr) : OpForm := .word fun a => k (.ind a)
def OpForm.indx (k : MemOperand → Instr) : OpForm := .byte fun z => k (.indx z)
def OpForm.indy (k : MemOperand → Instr) : OpForm := .byte fun z => k (.indy z)

/-- A read-type instruction on a byte of memory (R115). -/
def onSource (k : Source → Instr) (m : MemOperand) : Instr := k (.mem m)

/-- A read-modify-write instruction on a byte of memory (R117). -/
def onTarget (k : Target → Instr) (m : MemOperand) : Instr := k (.mem m)

/-- R84, row 0x of the opcode matrix. -/
def row0 : List OpForm :=
  [.bare .brk, .indx (onSource .ora), .illegal, .illegal, .illegal, .zp (onSource .ora), .zp (onTarget .asl), .illegal,
   .bare .php, .imm .ora, .bare (.asl .acc), .illegal, .illegal, .abs (onSource .ora), .abs (onTarget .asl), .illegal]

/-- R84, row 1x of the opcode matrix. -/
def row1 : List OpForm :=
  [.byte .bpl, .indy (onSource .ora), .illegal, .illegal, .illegal, .zpx (onSource .ora), .zpx (onTarget .asl), .illegal,
   .bare .clc, .absy (onSource .ora), .illegal, .illegal, .illegal, .absx (onSource .ora), .absx (onTarget .asl), .illegal]

/-- R84, row 2x of the opcode matrix. -/
def row2 : List OpForm :=
  [.word .jsr, .indx (onSource .and), .illegal, .illegal, .zp (onSource .bit), .zp (onSource .and), .zp (onTarget .rol), .illegal,
   .bare .plp, .imm .and, .bare (.rol .acc), .illegal, .abs (onSource .bit), .abs (onSource .and), .abs (onTarget .rol), .illegal]

/-- R84, row 3x of the opcode matrix. -/
def row3 : List OpForm :=
  [.byte .bmi, .indy (onSource .and), .illegal, .illegal, .illegal, .zpx (onSource .and), .zpx (onTarget .rol), .illegal,
   .bare .sec, .absy (onSource .and), .illegal, .illegal, .illegal, .absx (onSource .and), .absx (onTarget .rol), .illegal]

/-- R84, row 4x of the opcode matrix. -/
def row4 : List OpForm :=
  [.bare .rti, .indx (onSource .eor), .illegal, .illegal, .illegal, .zp (onSource .eor), .zp (onTarget .lsr), .illegal,
   .bare .pha, .imm .eor, .bare (.lsr .acc), .illegal, .abs .jmp, .abs (onSource .eor), .abs (onTarget .lsr), .illegal]

/-- R84, row 5x of the opcode matrix. -/
def row5 : List OpForm :=
  [.byte .bvc, .indy (onSource .eor), .illegal, .illegal, .illegal, .zpx (onSource .eor), .zpx (onTarget .lsr), .illegal,
   .bare .cli, .absy (onSource .eor), .illegal, .illegal, .illegal, .absx (onSource .eor), .absx (onTarget .lsr), .illegal]

/-- R84, row 6x of the opcode matrix. -/
def row6 : List OpForm :=
  [.bare .rts, .indx (onSource .adc), .illegal, .illegal, .illegal, .zp (onSource .adc), .zp (onTarget .ror), .illegal,
   .bare .pla, .imm .adc, .bare (.ror .acc), .illegal, .ind .jmp, .abs (onSource .adc), .abs (onTarget .ror), .illegal]

/-- R84, row 7x of the opcode matrix. -/
def row7 : List OpForm :=
  [.byte .bvs, .indy (onSource .adc), .illegal, .illegal, .illegal, .zpx (onSource .adc), .zpx (onTarget .ror), .illegal,
   .bare .sei, .absy (onSource .adc), .illegal, .illegal, .illegal, .absx (onSource .adc), .absx (onTarget .ror), .illegal]

/-- R84, row 8x of the opcode matrix. -/
def row8 : List OpForm :=
  [.illegal, .indx .sta, .illegal, .illegal, .zp .sty, .zp .sta, .zp .stx, .illegal,
   .bare .dey, .illegal, .bare .txa, .illegal, .abs .sty, .abs .sta, .abs .stx, .illegal]

/-- R84, row 9x of the opcode matrix. -/
def row9 : List OpForm :=
  [.byte .bcc, .indy .sta, .illegal, .illegal, .zpx .sty, .zpx .sta, .zpy .stx, .illegal,
   .bare .tya, .absy .sta, .bare .txs, .illegal, .illegal, .absx .sta, .illegal, .illegal]

/-- R84, row Ax of the opcode matrix. -/
def rowA : List OpForm :=
  [.imm .ldy, .indx (onSource .lda), .imm .ldx, .illegal, .zp (onSource .ldy), .zp (onSource .lda), .zp (onSource .ldx), .illegal,
   .bare .tay, .imm .lda, .bare .tax, .illegal, .abs (onSource .ldy), .abs (onSource .lda), .abs (onSource .ldx), .illegal]

/-- R84, row Bx of the opcode matrix. -/
def rowB : List OpForm :=
  [.byte .bcs, .indy (onSource .lda), .illegal, .illegal, .zpx (onSource .ldy), .zpx (onSource .lda), .zpy (onSource .ldx), .illegal,
   .bare .clv, .absy (onSource .lda), .bare .tsx, .illegal, .absx (onSource .ldy), .absx (onSource .lda), .absy (onSource .ldx), .illegal]

/-- R84, row Cx of the opcode matrix. -/
def rowC : List OpForm :=
  [.imm .cpy, .indx (onSource .cmp), .illegal, .illegal, .zp (onSource .cpy), .zp (onSource .cmp), .zp .dec, .illegal,
   .bare .iny, .imm .cmp, .bare .dex, .illegal, .abs (onSource .cpy), .abs (onSource .cmp), .abs .dec, .illegal]

/-- R84, row Dx of the opcode matrix. -/
def rowD : List OpForm :=
  [.byte .bne, .indy (onSource .cmp), .illegal, .illegal, .illegal, .zpx (onSource .cmp), .zpx .dec, .illegal,
   .bare .cld, .absy (onSource .cmp), .illegal, .illegal, .illegal, .absx (onSource .cmp), .absx .dec, .illegal]

/-- R84, row Ex of the opcode matrix. -/
def rowE : List OpForm :=
  [.imm .cpx, .indx (onSource .sbc), .illegal, .illegal, .zp (onSource .cpx), .zp (onSource .sbc), .zp .inc, .illegal,
   .bare .inx, .imm .sbc, .bare .nop, .illegal, .abs (onSource .cpx), .abs (onSource .sbc), .abs .inc, .illegal]

/-- R84, row Fx of the opcode matrix. -/
def rowF : List OpForm :=
  [.byte .beq, .indy (onSource .sbc), .illegal, .illegal, .illegal, .zpx (onSource .sbc), .zpx .inc, .illegal,
   .bare .sed, .absy (onSource .sbc), .illegal, .illegal, .illegal, .absx (onSource .sbc), .absx .inc, .illegal]
/-- R84: the sixteen rows of the matrix. -/
def opMatrix : List (List OpForm) :=
  [row0, row1, row2, row3, row4, row5, row6, row7] ++ [row8, row9, rowA, rowB, rowC, rowD, rowE, rowF]

/-- R83: TABLE, total over the 256 byte values. -/
def opForm (op : Byte) : OpForm :=
  ((opMatrix.getD (op.toNat / 16) []).getD (op.toNat % 16) .illegal)

/-! ## The decoder -/

/-- Why a list of bytes is no instruction: it ends before the instruction does. -/
inductive DecodeError where
  | noByte
  | truncated (op : Byte)
  deriving DecidableEq, Repr

/-- The instruction of an opcode byte and the two bytes after it (R81, R82: `abs16` is byte 2 : byte 1). Bytes the form
does not have are not looked at. -/
def OpForm.build (f : OpForm) (op b1 b2 : Byte) : Instr :=
  match f with
  | .illegal => .illegal op
  | .bare i  => i
  | .byte k  => k b1
  | .word k  => k (joinBytes b2 b1)

/-- R81: the instruction of a form and of the bytes after the opcode, and the bytes left over. -/
def OpForm.decodeTail (f : OpForm) (op : Byte) (tail : List Byte) : Except DecodeError (Instr × List Byte) :=
  match f, tail with
  | .illegal, _               => .ok (.illegal op, tail)
  | .bare i, _                => .ok (i, tail)
  | .byte k, b1 :: rest       => .ok (k b1, rest)
  | .byte _, []               => .error (.truncated op)
  | .word k, b1 :: b2 :: rest => .ok (k (joinBytes b2 b1), rest)
  | .word _, _                => .error (.truncated op)

/-- R80, R83: the first instruction of a list of bytes, and the bytes after it. An ILLEGAL byte is an instruction of
its own (R87: it consumes only its opcode byte). -/
def decode : List Byte → Except DecodeError (Instr × List Byte)
  | []         => .error .noByte
  | op :: tail => (opForm op).decodeTail op tail

/-- R87: an instruction's length in bytes is decided by its opcode byte alone. -/
def opLength (op : Byte) : Nat := 1 + (opForm op).operandBytes

/-! ## The encoder -/

/-- The byte listed for a mode in a line of R84's table by mnemonic. -/
def pick (line : List (AddrMode × Byte)) (m : AddrMode) : Option Byte := line.lookup m

/-- R84, the table by mnemonic; an ILLEGAL term has the byte it carries (R85). -/
def Instr.opcode : Instr → Option Byte
  | .lda o => pick [(.imm, 0xA9), (.zp, 0xA5), (.zpx, 0xB5), (.abs, 0xAD), (.absx, 0xBD), (.absy, 0xB9), (.indx, 0xA1), (.indy, 0xB1)] o.mode
  | .ldx o => pick [(.imm, 0xA2), (.zp, 0xA6), (.zpy, 0xB6), (.abs, 0xAE), (.absy, 0xBE)] o.mode
  | .ldy o => pick [(.imm, 0xA0), (.zp, 0xA4), (.zpx, 0xB4), (.abs, 0xAC), (.absx, 0xBC)] o.mode
  | .sta o => pick [(.zp, 0x85), (.zpx, 0x95), (.abs, 0x8D), (.absx, 0x9D), (.absy, 0x99), (.indx, 0x81), (.indy, 0x91)] o.mode
  | .stx o => pick [(.zp, 0x86), (.zpy, 0x96), (.abs, 0x8E)] o.mode
  | .sty o => pick [(.zp, 0x84), (.zpx, 0x94), (.abs, 0x8C)] o.mode
  | .adc o => pick [(.imm, 0x69), (.zp, 0x65), (.zpx, 0x75), (.abs, 0x6D), (.absx, 0x7D), (.absy, 0x79), (.indx, 0x61), (.indy, 0x71)] o.mode
  | .sbc o => pick [(.imm, 0xE9), (.zp, 0xE5), (.zpx, 0xF5), (.abs, 0xED), (.absx, 0xFD), (.absy, 0xF9), (.indx, 0xE1), (.indy, 0xF1)] o.mode
  | .and o => pick [(.imm, 0x29), (.zp, 0x25), (.zpx, 0x35), (.abs, 0x2D), (.absx, 0x3D), (.absy, 0x39), (.indx, 0x21), (.indy, 0x31)] o.mode
  | .ora o => pick [(.imm, 0x09), (.zp, 0x05), (.zpx, 0x15), (.abs, 0x0D), (.absx, 0x1D), (.absy, 0x19), (.indx, 0x01), (.indy, 0x11)] o.mode
  | .eor o => pick [(.imm, 0x49), (.zp, 0x45), (.zpx, 0x55), (.abs, 0x4D), (.absx, 0x5D), (.absy, 0x59), (.indx, 0x41), (.indy, 0x51)] o.mode
  | .bit o => pick [(.zp, 0x24), (.abs, 0x2C)] o.mode
  | .asl o => pick [(.zp, 0x06), (.zpx, 0x16), (.abs, 0x0E), (.absx, 0x1E), (.acc, 0x0A)] o.mode
  | .lsr o => pick [(.zp, 0x46), (.zpx, 0x56), (.abs, 0x4E), (.absx, 0x5E), (.acc, 0x4A)] o.mode
  | .rol o => pick [(.zp, 0x26), (.zpx, 0x36), (.abs, 0x2E), (.absx, 0x3E), (.acc, 0x2A)] o.mode
  | .ror o => pick [(.zp, 0x66), (.zpx, 0x76), (.abs, 0x6E), (.absx, 0x7E), (.acc, 0x6A)] o.mode
  | .cmp o => pick [(.imm, 0xC9), (.zp, 0xC5), (.zpx, 0xD5), (.abs, 0xCD), (.absx, 0xDD), (.absy, 0xD9), (.indx, 0xC1), (.indy, 0xD1)] o.mode
  | .cpx o => pick [(.imm, 0xE0), (.zp, 0xE4), (.abs, 0xEC)] o.mode
  | .cpy o => pick [(.imm, 0xC0), (.zp, 0xC4), (.abs, 0xCC)] o.mode
  | .bcc _ => some 0x90
  | .bcs _ => some 0xB0
  | .beq _ => some 0xF0
  | .bne _ => some 0xD0
  | .bmi _ => some 0x30
  | .bpl _ => some 0x10
  | .bvc _ => some 0x50
  | .bvs _ => some 0x70
  | .pha => some 0x48
  | .php => some 0x08
  | .pla => some 0x68
  | .plp => some 0x28
  | .tax => some 0xAA
  | .tay => some 0xA8
  | .tsx => some 0xBA
  | .txa => some 0x8A
  | .txs => some 0x9A
  | .tya => some 0x98
  | .inx => some 0xE8
  | .iny => some 0xC8
  | .dex => some 0xCA
  | .dey => some 0x88
  | .inc o => pick [(.zp, 0xE6), (.zpx, 0xF6), (.abs, 0xEE), (.absx, 0xFE)] o.mode
  | .dec o => pick [(.zp, 0xC6), (.zpx, 0xD6), (.abs, 0xCE), (.absx, 0xDE)] o.mode
  | .sec => some 0x38
  | .clc => some 0x18
  | .sei => some 0x78
  | .cli => some 0x58
  | .sed => some 0xF8
  | .cld => some 0xD8
  | .clv => some 0xB8
  | .jmp o => pick [(.abs, 0x4C), (.ind, 0x6C)] o.mode
  | .jsr _ => some 0x20
  | .rts => some 0x60
  | .brk => some 0x00
  | .rti => some 0x40
  | .nop => some 0xEA
  | .illegal op => if op ∈ illegalBytes then some op else none

/-- R82: the operand field of an effective-address form, as bytes, low byte first. -/
def MemOperand.bytes : MemOperand → List Byte
  | .zp z   => [z]
  | .zpx z  => [z]
  | .zpy z  => [z]
  | .abs a  => [loByte a, hiByte a]
  | .absx a => [loByte a, hiByte a]
  | .absy a => [loByte a, hiByte a]
  | .ind a  => [loByte a, hiByte a]
  | .indx z => [z]
  | .indy z => [z]

def Source.bytes : Source → List Byte
  | .imm n => [n]
  | .mem m => m.bytes

def Target.bytes : Target → List Byte
  | .acc   => []
  | .mem m => m.bytes

/-- R81, R82: the operand bytes of an instruction, in memory order. -/
def Instr.operandBytes : Instr → List Byte
  | .lda s | .ldx s | .ldy s | .adc s | .sbc s | .and s | .ora s | .eor s | .bit s => s.bytes
  | .cmp s | .cpx s | .cpy s => s.bytes
  | .sta m | .stx m | .sty m | .inc m | .dec m | .jmp m => m.bytes
  | .asl t | .lsr t | .rol t | .ror t => t.bytes
  | .bcc d | .bcs d | .beq d | .bne d | .bmi d | .bpl d | .bvc d | .bvs d => [d]
  | .jsr a => [loByte a, hiByte a]
  | .pha | .pla | .plp | .php | .tax | .tay | .tsx | .txa | .txs | .tya | .inx | .iny | .dex | .dey => []
  | .clc | .sec | .cli | .sei | .cld | .sed | .clv | .rts | .brk | .rti | .nop | .illegal _ => []

/-- R81: the length of an instruction in bytes. -/
def Instr.length (i : Instr) : Nat := 1 + i.operandBytes.length

/-- The bytes of a well-formed instruction; a term that is none has no encoding. -/
def encode (i : Instr) : Option (List Byte) := i.opcode.map (· :: i.operandBytes)

/-! ## The opcode table's numbering of bits -/

/-- The byte of bits 8k+7..8k of a number whose bit 0 is bit 0 of the first byte. -/
def tableByte (w k : Nat) : Byte := BitVec.ofNat 8 (w / 256 ^ k)

/-- The longest instruction's three bytes, of a word of `nbits` bits; every bit above nbits is 0. -/
def tableBytes (nbits w : Nat) : List Byte :=
  let v := w % 2 ^ nbits
  [tableByte v 0, tableByte v 1, tableByte v 2]

/-- What the decoder reads from an instruction numbered as spec/opcode_table.json numbers it. -/
def decodeTableWord (nbits w : Nat) : Option Instr :=
  match decode (tableBytes nbits w) with
  | .ok (i, _) => some i
  | .error _   => none

end Sys2Proof
end

