-- ==== Sys2Proof/Config.lean ====
section
/-! DEFINITION. What this hardware fixes (00_scope.md R7), and the values nothing fixes.

The parameters of R7, and where each stands in the model:
`ADDR_BITS` and `MEM_SIZE` are the two constants below;
`DECIMAL_MODE` = false, so that ADC and SBC never read D (Machine/Flags.lean);
`ILLEGAL_POLICY` = trap, the operation raiseIllegal of Machine/Ops.lean;
`RESET_CLEARS_MEMORY` = false, so that Reset keeps memory (Machine/HostOps.lean);
`BUS` = flat, so that every access goes straight to memory (Machine/Ops.lean);
`INIT_MEM`, OPEN, is the argument of construct, and `STOP`, OPEN, an argument of execute (Machine/HostOps.lean). -/

namespace Sys2Proof.Config

/-- R7 `ADDR_BITS`. -/
def addrBits : Nat := 16

/-- R7 `MEM_SIZE`: the bytes of the address space. -/
def memSize : Nat := 2 ^ addrBits

/-- What an address that memory does not list reads as: the INIT_MEM byte of a machine whose host loaded no image
there. DESIGN CHOICE (unsafe): the spec leaves INIT_MEM open (20_memory.md R67). Log entry 1. -/
def unlistedByte : Byte := 0x00

/-- R57: the vectors, each the address of a little-endian pair. -/
def nmiVector : Addr := 0xFFFA
def resetVector : Addr := 0xFFFC
def irqVector : Addr := 0xFFFE

/-- R200: the page of the stack. -/
def stackPage : Addr := 0x0100

/-- One row of the address map of R57: `first` to `last`, both included. -/
structure Region where
  name  : String
  first : Addr
  last  : Addr
  deriving DecidableEq, Repr

/-- R57: the regions the CORE fixes. All are ordinary storage in the CORE (R58, R59). -/
def regions : List Region :=
  [ ⟨"zero page", 0x0000, 0x00FF⟩,
    ⟨"stack page", 0x0100, 0x01FF⟩,
    ⟨"PPU registers", 0x2000, 0x2007⟩,
    ⟨"APU/IO registers", 0x4000, 0x4017⟩,
    ⟨"NMI vector", 0xFFFA, 0xFFFB⟩,
    ⟨"reset vector", 0xFFFC, 0xFFFD⟩,
    ⟨"IRQ/BRK vector", 0xFFFE, 0xFFFF⟩ ]

/-- An address lies in a region. -/
def Region.holds (r : Region) (a : Addr) : Bool := r.first ≤ a && a ≤ r.last

/- 10_state.md R39: before the first Reset the registers are unspecified, and a model must not give them a value.
Each is a free value: a constant without a body, so that nothing can be proved of it. Log entry 6 (DEDUCED, safe). -/
opaque powerUpA : Byte
opaque powerUpX : Byte
opaque powerUpY : Byte
opaque powerUpSP : Byte
opaque powerUpPC : Addr
opaque powerUpC : Bool
opaque powerUpZ : Bool
opaque powerUpI : Bool
opaque powerUpD : Bool
opaque powerUpV : Bool
opaque powerUpN : Bool

/-- The level of the host's IRQ input when the machine is constructed; the spec gives none (10_state.md R36). -/
opaque powerUpIrqLine : Bool

end Sys2Proof.Config
end

