-- ==== Sys2Proof/Machine/State.lean ====
section
/-! DEFINITION. The architectural state, whole (10_state.md R20: "Nothing else is state"), the reasons a step stops, and
the state after reset. -/

namespace Sys2Proof.Machine

/-- R26: the six stored flags of the status register P. Bits 4 and 5 of the byte are not stored; `Flags.toByte`
(Machine/Flags.lean) is the 8-bit view of R27. -/
structure Flags where
  n : Bool
  v : Bool
  d : Bool
  i : Bool
  z : Bool
  c : Bool
  deriving DecidableEq, Repr

/-- R50, R52: memory, as the listed bytes of the flat 64 KiB array, by rising address; an address that is not listed
reads as Config.unlistedByte (log entries 1 and 2). Reading and writing are in Machine/Memory.lean. -/
abbrev Memory := List Host.Cell

/-- R252: the only failure category. -/
inductive Fault where
  /-- R251. Recorded in `run` by the step that meets an ILLEGAL byte `op` at address `addr`; raised by every later
  step until Reset (R260: "no step: the CORE is stuck with fault f recorded"). Safe: the spec's own trap. -/
  | illegalOpcode (op : Byte) (addr : Addr)
  deriving DecidableEq, Repr

/-- Why a step has no meaning. -/
inductive Refusal where
  /-- An instruction without a meaning yet; raised by exec's arm for it. No arm raises it. Safe. -/
  | notModelled (mnemonic : String)
  /-- R260: a step before the first Reset, "REFUSED (NotStarted)". Raised by step. Safe: the spec's own refusal. -/
  | notStarted
  deriving DecidableEq, Repr

/-- R37: the run state. -/
inductive RunState where
  | notReset
  | running
  | halted (f : Fault)
  deriving DecidableEq, Repr

/-- R20: the state record. -/
structure State where
  /-- R21: the accumulator. -/
  a : Byte
  /-- R22: index register X. -/
  x : Byte
  /-- R23: index register Y. -/
  y : Byte
  /-- R24: the stack pointer, an offset in page 1. -/
  sp : Byte
  /-- R25: the address of the next byte not yet consumed. -/
  pc : Addr
  /-- R26: the status flags. -/
  p : Flags
  /-- R32: the flat memory. -/
  mem : Memory
  /-- R35: the latched NMI request. -/
  nmiPending : Bool
  /-- R36: the host's level IRQ request. -/
  irqLine : Bool
  /-- R37: NotReset, Running or Halted. -/
  run : RunState
  deriving DecidableEq, Repr

/-- P after Reset, 0x24 (R38). -/
def Flags.reset : Flags := { n := false, v := false, d := false, i := true, z := false, c := false }

/-- R38: the machine right after Reset, with no image loaded. PC is the reset vector's value, both of whose bytes are
unlisted (log entries 1 and 4); irq_line, which Reset leaves to the host, is not asserted (log entry 3). That this is
what Reset makes of a constructed machine is Laws/Host.lean's reset_eq_hostReset. -/
def State.reset : State where
  a := 0x00
  x := 0x00
  y := 0x00
  sp := 0xFF
  pc := 0x0000
  p := Flags.reset
  mem := []
  nmiPending := false
  irqLine := false
  run := .running

end Sys2Proof.Machine
end

