-- ==== Sys2Proof/Machine/Flags.lean ====
section
/-! DEFINITION. Every computation over the status register: its 8-bit view, the pushed and restored bytes, and the flag
rules of the arithmetic, compare, shift and increment instructions. A computation of a result with its flags takes the
flags before and answers the result and the flags after. -/

namespace Sys2Proof.Machine

/-- A flag as a number. -/
def bitOf (b : Bool) : Byte := if b then 1 else 0

/-- R27: the 8-bit view of P. Bit 5 is 1 and bit 4 is 0. -/
def Flags.toByte (p : Flags) : Byte :=
  bitOf p.n <<< 7 ||| bitOf p.v <<< 6 ||| 1#8 <<< 5 ||| 0#8 <<< 4 ||| bitOf p.d <<< 3 ||| bitOf p.i <<< 2
    ||| bitOf p.z <<< 1 ||| bitOf p.c

/-- R28: the byte that PHP and BRK (break value 1) and IRQ and NMI entry (break value 0) push. -/
def pushedStatus (p : Flags) (b : Bool) : Byte := (p.toByte &&& 0xCF) ||| 0x20 ||| (bitOf b <<< 4)

/-- R29: P from a pulled byte; bits 4 and 5 are ignored. -/
def restoreStatus (v : Byte) : Flags where
  c := v.getLsbD 0
  z := v.getLsbD 1
  i := v.getLsbD 2
  d := v.getLsbD 3
  v := v.getLsbD 6
  n := v.getLsbD 7

/-- R30: Z and N of a result. -/
def Flags.setNZ (p : Flags) (r : Byte) : Flags := { p with z := r = 0, n := r.msb }

/-- R140: ADC's sum, binary whatever D is (R143). -/
def addFlags (p : Flags) (a m : Byte) : Byte × Flags :=
  let s := a.toNat + m.toNat + p.c.toNat
  let r : Byte := BitVec.ofNat 8 s
  (r, { p with c := 0xFF < s, v := a.msb == m.msb && a.msb != r.msb }.setNZ r)

/-- R141: SBC's difference, by one's-complement addition; carry is not-borrow. -/
def subFlags (p : Flags) (a m : Byte) : Byte × Flags :=
  let s := a.toNat + (~~~m).toNat + p.c.toNat
  let r : Byte := BitVec.ofNat 8 s
  (r, { p with c := 0xFF < s, v := a.msb != m.msb && a.msb != r.msb }.setNZ r)

/-- 45_compare.md's helper `compare(R, M)` (R170 to R172). -/
def compareFlags (p : Flags) (r m : Byte) : Flags :=
  { p with c := m.toNat ≤ r.toNat, z := r = m, n := (r - m).msb }

/-- R153: BIT's flags. -/
def bitFlags (p : Flags) (a m : Byte) : Flags :=
  { p with z := a &&& m = 0, n := m.getLsbD 7, v := m.getLsbD 6 }

/-- R160: ASL. -/
def aslFlags (p : Flags) (v : Byte) : Byte × Flags :=
  let r := v <<< 1
  (r, { p with c := v.getLsbD 7 }.setNZ r)

/-- R161: LSR. -/
def lsrFlags (p : Flags) (v : Byte) : Byte × Flags :=
  let r := v >>> 1
  (r, { p with c := v.getLsbD 0 }.setNZ r)

/-- R162: ROL, the old carry enters bit 0. -/
def rolFlags (p : Flags) (v : Byte) : Byte × Flags :=
  let r := v <<< 1 ||| bitOf p.c
  (r, { p with c := v.getLsbD 7 }.setNZ r)

/-- R163: ROR, the old carry enters bit 7. -/
def rorFlags (p : Flags) (v : Byte) : Byte × Flags :=
  let r := v >>> 1 ||| bitOf p.c <<< 7
  (r, { p with c := v.getLsbD 0 }.setNZ r)

/-- R220, and R216, R217 on a register: increment mod 256. -/
def incFlags (p : Flags) (v : Byte) : Byte × Flags := (v + 1, p.setNZ (v + 1))

/-- R221, and R218, R219 on a register: decrement mod 256. -/
def decFlags (p : Flags) (v : Byte) : Byte × Flags := (v - 1, p.setNZ (v - 1))

end Sys2Proof.Machine
end

