-- ==== Sys2Proof/Machine/Ops.lean ====
section
/-! DEFINITION. The named operations over registers and memory: one byte read and written, the stack, interrupt entry
and return, the illegal-opcode trap, fetching an instruction, and the decision taken at an instruction boundary. -/

namespace Sys2Proof.Machine

/-! ## Registers (10_state.md R9, R20) -/

def State.setA (s : State) (v : Byte) : State := { s with a := v }
def State.setX (s : State) (v : Byte) : State := { s with x := v }
def State.setY (s : State) (v : Byte) : State := { s with y := v }
def State.setSp (s : State) (v : Byte) : State := { s with sp := v }
def State.setPc (s : State) (v : Addr) : State := { s with pc := v }
def State.setP (s : State) (p : Flags) : State := { s with p := p }
def State.setRun (s : State) (r : RunState) : State := { s with run := r }
def State.setNmi (s : State) (b : Bool) : State := { s with nmiPending := b }
def State.setIrq (s : State) (b : Bool) : State := { s with irqLine := b }

/-! ## Memory (00_scope.md R10, 20_memory.md R51, R52) -/

/-- `MemRead(a, 1)`. -/
def State.read (s : State) (a : Addr) : Byte := s.mem.read a.toNat

/-- `MemWrite(a, 1, v)`. -/
def State.write (s : State) (a : Addr) (v : Byte) : State := { s with mem := s.mem.write a.toNat v }

/-- A 16-bit quantity, the low byte read at `lo` and the high byte at `hi` (R54). -/
def State.readPair (s : State) (lo hi : Addr) : Addr := joinBytes (s.read hi) (s.read lo)

/-! ## The stack (47_stack.md R200) -/

/-- `0x0100 | SP`. -/
def stackAddr (sp : Byte) : Addr := Config.stackPage ||| zext16 sp

/-- `push(v)`: store, then decrement SP mod 256. -/
def State.push (s : State) (v : Byte) : State := (s.write (stackAddr s.sp) v).setSp (s.sp - 1)

/-- The byte that `pull()` returns. -/
def State.pulled (s : State) : Byte := s.read (stackAddr (s.sp + 1))

/-- What `pull()` changes: SP is incremented mod 256. -/
def State.afterPull (s : State) : State := s.setSp (s.sp + 1)

/-! ## Interrupt entry and return (60_exceptions.md R263, 49_flags_control.md R244) -/

/-- R263: `enter(ret, vec, b)`, shared by NMI, IRQ and BRK. -/
def State.enter (s : State) (ret vec : Addr) (b : Bool) : State :=
  let s1 := ((s.push (hiByte ret)).push (loByte ret)).push (pushedStatus s.p b)
  let s2 := s1.setP { s1.p with i := true }
  s2.setPc (s2.readPair vec (vec + 1))

/-- R244: the return from NMI, IRQ and BRK: status, then PC low, then PC high, no increment. -/
def State.returnFromInterrupt (s : State) : State :=
  let s1 := s.afterPull.setP (restoreStatus s.pulled)
  let s2 := s1.afterPull
  s2.afterPull.setPc (joinBytes s2.pulled s1.pulled)

/-- R251: `raise IllegalOpcode(op, opaddr)`. -/
def State.raiseIllegal (s : State) (op : Byte) (opaddr : Addr) : State :=
  s.setRun (.halted (.illegalOpcode op opaddr))

/-! ## Fetch (30_encoding.md R80, R81) -/

/-- The instruction at PC: the opcode byte, and the operand bytes its form has, at PC + 1 and PC + 2 mod 2^16. -/
def State.fetched (s : State) : Instr :=
  let op := s.read s.pc
  (opForm op).build op (s.read (s.pc + 1)) (s.read (s.pc + 2))

/-- R25: PC past an instruction's bytes, mod 2^16. -/
def State.pastInstr (s : State) (i : Instr) : State := s.setPc (s.pc + BitVec.ofNat 16 i.length)

/-! ## The boundary (60_exceptions.md R260 to R265) -/

/-- R261: NMI entry. -/
def State.enterNmi (s : State) : State := (s.setNmi false).enter s.pc Config.nmiVector false

/-- R264: IRQ entry; the line is not cleared. -/
def State.enterIrq (s : State) : State := s.enter s.pc Config.irqVector false

/-- R260, R265: the interrupt that a boundary in Running enters, if any; NMI before IRQ, IRQ only while I = 0. -/
def State.interrupt? (s : State) : Option State :=
  if s.nmiPending then some s.enterNmi
  else if s.irqLine && !s.p.i then some s.enterIrq
  else none

end Sys2Proof.Machine
end

