-- ==== Sys2Proof/Machine/Operands.lean ====
section
/-! DEFINITION. The addressing-mode resolver (40_addressing.md). The operand bytes stand in the operand, and PC is past
them already (log entry 7); what remains is the effective address, with the pointer reads of its mode. -/

namespace Sys2Proof.Machine

/-- R108: where JMP indirect reads the high byte: the low byte of the pointer wraps within its page. -/
def samePageNext (p : Addr) : Addr := (p &&& 0xFF00) ||| ((p + 1) &&& 0x00FF)

/-- R114: the effective address. R102, R103, R104, R105, R106, R107, R108, R109, R110 in the order of the arms. -/
def resolve (m : MemOperand) (s : State) : Addr :=
  match m with
  | .zp z   => zext16 z
  | .zpx z  => zext16 (z + s.x)
  | .zpy z  => zext16 (z + s.y)
  | .abs a  => a
  | .absx a => a + zext16 s.x
  | .absy a => a + zext16 s.y
  | .ind p  => s.readPair p (samePageNext p)
  | .indx z => s.readPair (zext16 (z + s.x)) (zext16 (z + s.x + 1))
  | .indy z => s.readPair (zext16 z) (zext16 (z + 1)) + zext16 s.y

/-- R115: the operand M of a read-type instruction. -/
def sourceValue (src : Source) (s : State) : Byte :=
  match src with
  | .imm n => n
  | .mem m => s.read (resolve m s)

/-- R116: `store(mode, v)`. -/
def store (m : MemOperand) (v : Byte) (s : State) : State := s.write (resolve m s) v

/-- R117 on memory: one read and one write of EA. -/
def modifyMemory (m : MemOperand) (f : Flags → Byte → Byte × Flags) (s : State) : State :=
  let ea := resolve m s
  let r := f s.p (s.read ea)
  (s.write ea r.1).setP r.2

/-- R117: `rmw(mode, f)`. -/
def modify (t : Target) (f : Flags → Byte → Byte × Flags) (s : State) : State :=
  match t with
  | .acc   => (s.setA (f s.p s.a).1).setP (f s.p s.a).2
  | .mem m => modifyMemory m f s

/-- R112, R180: PC, already past the displacement, moves by it when the condition holds. -/
def branchIf (cond : Bool) (d : Byte) (s : State) : State :=
  if cond then s.setPc (s.pc + sext16 d) else s

end Sys2Proof.Machine
end

