-- ==== Sys2Proof/Machine/Arith.lean ====
section
/-! DEFINITION. Arithmetic, binary only (42_arithmetic.md R140 to R143). -/

namespace Sys2Proof.Machine

/-- R140. -/
def execAdc (src : Source) (s : State) : Host.Outcome State Fault Refusal :=
  let r := addFlags s.p s.a (sourceValue src s)
  .next ((s.setA r.1).setP r.2)

/-- R141. -/
def execSbc (src : Source) (s : State) : Host.Outcome State Fault Refusal :=
  let r := subFlags s.p s.a (sourceValue src s)
  .next ((s.setA r.1).setP r.2)

end Sys2Proof.Machine
end

