-- ==== Sys2Proof/Machine/Branch.lean ====
section
/-! DEFINITION. Conditional branches; no flag is written (46_branch.md R180). -/

namespace Sys2Proof.Machine

/-- R181: taken if C is 0. -/
def execBcc (d : Byte) (s : State) : Host.Outcome State Fault Refusal :=
  .next (branchIf (!s.p.c) d s)

/-- R182: taken if C is 1. -/
def execBcs (d : Byte) (s : State) : Host.Outcome State Fault Refusal :=
  .next (branchIf s.p.c d s)

/-- R183: taken if Z is 1. -/
def execBeq (d : Byte) (s : State) : Host.Outcome State Fault Refusal :=
  .next (branchIf s.p.z d s)

/-- R184: taken if Z is 0. -/
def execBne (d : Byte) (s : State) : Host.Outcome State Fault Refusal :=
  .next (branchIf (!s.p.z) d s)

/-- R185: taken if N is 1. -/
def execBmi (d : Byte) (s : State) : Host.Outcome State Fault Refusal :=
  .next (branchIf s.p.n d s)

/-- R186: taken if N is 0. -/
def execBpl (d : Byte) (s : State) : Host.Outcome State Fault Refusal :=
  .next (branchIf (!s.p.n) d s)

/-- R187: taken if V is 0. -/
def execBvc (d : Byte) (s : State) : Host.Outcome State Fault Refusal :=
  .next (branchIf (!s.p.v) d s)

/-- R188: taken if V is 1. -/
def execBvs (d : Byte) (s : State) : Host.Outcome State Fault Refusal :=
  .next (branchIf s.p.v d s)

end Sys2Proof.Machine
end

