-- ==== Sys2Proof/Machine/Compare.lean ====
section
/-! DEFINITION. Compares; no register and no V is written (45_compare.md). -/

namespace Sys2Proof.Machine

/-- R170. -/
def execCmp (src : Source) (s : State) : Host.Outcome State Fault Refusal :=
  .next (s.setP (compareFlags s.p s.a (sourceValue src s)))

/-- R171. -/
def execCpx (src : Source) (s : State) : Host.Outcome State Fault Refusal :=
  .next (s.setP (compareFlags s.p s.x (sourceValue src s)))

/-- R172. -/
def execCpy (src : Source) (s : State) : Host.Outcome State Fault Refusal :=
  .next (s.setP (compareFlags s.p s.y (sourceValue src s)))

end Sys2Proof.Machine
end

