-- ==== Sys2Proof/Machine/Control.lean ====
section
/-! DEFINITION. Control transfer, NOP and the illegal-opcode trap (49_flags_control.md R240 to R245, 60_exceptions.md R251). PC is
past the instruction's bytes when a meaning runs. -/

namespace Sys2Proof.Machine

/-- R240: absolute and indirect. -/
def execJmp (tgt : MemOperand) (s : State) : Host.Outcome State Fault Refusal :=
  .next (s.setPc (resolve tgt s))

/-- R241: the address of JSR's last byte is pushed, high byte first. -/
def execJsr (tgt : Addr) (s : State) : Host.Outcome State Fault Refusal :=
  let ret := s.pc - 1
  .next (((s.push (hiByte ret)).push (loByte ret)).setPc tgt)

/-- R242: the pulled address plus 1. -/
def execRts (s : State) : Host.Outcome State Fault Refusal :=
  let s1 := s.afterPull
  .next (s1.afterPull.setPc (joinBytes s1.pulled s.pulled + 1))

/-- R243: PC + 1 is pushed and the padding byte is not read. -/
def execBrk (s : State) : Host.Outcome State Fault Refusal :=
  .next (s.enter (s.pc + 1) Config.irqVector true)

/-- R244. -/
def execRti (s : State) : Host.Outcome State Fault Refusal :=
  .next s.returnFromInterrupt

/-- R245: nothing but the PC's advance. -/
def execNop (s : State) : Host.Outcome State Fault Refusal :=
  .next s

/-- R251: the opcode's address is PC - 1, because the fetch has advanced PC by one. -/
def execIllegal (op : Byte) (s : State) : Host.Outcome State Fault Refusal :=
  .next (s.raiseIllegal op (s.pc - 1))

end Sys2Proof.Machine
end

