-- ==== Sys2Proof/Machine/FlagOps.lean ====
section
/-! DEFINITION. Flag instructions: each writes the one flag it names (49_flags_control.md R230 to R236). -/

namespace Sys2Proof.Machine

/-- R230. -/
def execClc (s : State) : Host.Outcome State Fault Refusal :=
  .next (s.setP { s.p with c := false })

/-- R231. -/
def execSec (s : State) : Host.Outcome State Fault Refusal :=
  .next (s.setP { s.p with c := true })

/-- R232. -/
def execCli (s : State) : Host.Outcome State Fault Refusal :=
  .next (s.setP { s.p with i := false })

/-- R233. -/
def execSei (s : State) : Host.Outcome State Fault Refusal :=
  .next (s.setP { s.p with i := true })

/-- R234. -/
def execCld (s : State) : Host.Outcome State Fault Refusal :=
  .next (s.setP { s.p with d := false })

/-- R235. -/
def execSed (s : State) : Host.Outcome State Fault Refusal :=
  .next (s.setP { s.p with d := true })

/-- R236. -/
def execClv (s : State) : Host.Outcome State Fault Refusal :=
  .next (s.setP { s.p with v := false })

end Sys2Proof.Machine
end

