-- ==== Sys2Proof/Machine/LoadStore.lean ====
section
/-! DEFINITION. Loads and stores (41_load_store.md). -/

namespace Sys2Proof.Machine

/-- R130: `A <- M; setNZ(A)`. -/
def execLda (src : Source) (s : State) : Host.Outcome State Fault Refusal :=
  let m := sourceValue src s
  .next ((s.setA m).setP (s.p.setNZ m))

/-- R131: `X <- M; setNZ(X)`. -/
def execLdx (src : Source) (s : State) : Host.Outcome State Fault Refusal :=
  let m := sourceValue src s
  .next ((s.setX m).setP (s.p.setNZ m))

/-- R132: `Y <- M; setNZ(Y)`. -/
def execLdy (src : Source) (s : State) : Host.Outcome State Fault Refusal :=
  let m := sourceValue src s
  .next ((s.setY m).setP (s.p.setNZ m))

/-- R133: `store(mode, A)`; no flag is written. -/
def execSta (dst : MemOperand) (s : State) : Host.Outcome State Fault Refusal :=
  .next (store dst s.a s)

/-- R134: `store(mode, X)`; no flag is written. -/
def execStx (dst : MemOperand) (s : State) : Host.Outcome State Fault Refusal :=
  .next (store dst s.x s)

/-- R135: `store(mode, Y)`; no flag is written. -/
def execSty (dst : MemOperand) (s : State) : Host.Outcome State Fault Refusal :=
  .next (store dst s.y s)

end Sys2Proof.Machine
end

