-- ==== Sys2Proof/Machine/Logic.lean ====
section
/-! DEFINITION. Logic (43_logic.md). -/

namespace Sys2Proof.Machine

/-- R150. -/
def execAnd (src : Source) (s : State) : Host.Outcome State Fault Refusal :=
  let r := s.a &&& sourceValue src s
  .next ((s.setA r).setP (s.p.setNZ r))

/-- R151. -/
def execOra (src : Source) (s : State) : Host.Outcome State Fault Refusal :=
  let r := s.a ||| sourceValue src s
  .next ((s.setA r).setP (s.p.setNZ r))

/-- R152. -/
def execEor (src : Source) (s : State) : Host.Outcome State Fault Refusal :=
  let r := s.a ^^^ sourceValue src s
  .next ((s.setA r).setP (s.p.setNZ r))

/-- R153: A is not written. -/
def execBit (src : Source) (s : State) : Host.Outcome State Fault Refusal :=
  .next (s.setP (bitFlags s.p s.a (sourceValue src s)))

end Sys2Proof.Machine
end

