-- ==== Sys2Proof/Machine/Shift.lean ====
section
/-! DEFINITION. Shifts and rotates, on the accumulator or memory (44_shift_rotate.md). -/

namespace Sys2Proof.Machine

/-- R160. -/
def execAsl (tgt : Target) (s : State) : Host.Outcome State Fault Refusal :=
  .next (modify tgt aslFlags s)

/-- R161. -/
def execLsr (tgt : Target) (s : State) : Host.Outcome State Fault Refusal :=
  .next (modify tgt lsrFlags s)

/-- R162. -/
def execRol (tgt : Target) (s : State) : Host.Outcome State Fault Refusal :=
  .next (modify tgt rolFlags s)

/-- R163. -/
def execRor (tgt : Target) (s : State) : Host.Outcome State Fault Refusal :=
  .next (modify tgt rorFlags s)

end Sys2Proof.Machine
end

