-- ==== Sys2Proof/Machine/Stack.lean ====
section
/-! DEFINITION. Stack instructions (47_stack.md). -/

namespace Sys2Proof.Machine

/-- R201. -/
def execPha (s : State) : Host.Outcome State Fault Refusal :=
  .next (s.push s.a)

/-- R202. -/
def execPla (s : State) : Host.Outcome State Fault Refusal :=
  .next ((s.afterPull.setA s.pulled).setP (s.p.setNZ s.pulled))

/-- R203. -/
def execPlp (s : State) : Host.Outcome State Fault Refusal :=
  .next (s.afterPull.setP (restoreStatus s.pulled))

/-- R204: the pushed byte has B = 1. -/
def execPhp (s : State) : Host.Outcome State Fault Refusal :=
  .next (s.push (pushedStatus s.p true))

end Sys2Proof.Machine
end

