-- ==== Sys2Proof/Machine/Transfer.lean ====
section
/-! DEFINITION. Transfers, increments and decrements (48_transfer_incdec.md). -/

namespace Sys2Proof.Machine

/-- R210. -/
def execTax (s : State) : Host.Outcome State Fault Refusal :=
  .next ((s.setX s.a).setP (s.p.setNZ s.a))

/-- R211. -/
def execTay (s : State) : Host.Outcome State Fault Refusal :=
  .next ((s.setY s.a).setP (s.p.setNZ s.a))

/-- R212. -/
def execTsx (s : State) : Host.Outcome State Fault Refusal :=
  .next ((s.setX s.sp).setP (s.p.setNZ s.sp))

/-- R213. -/
def execTxa (s : State) : Host.Outcome State Fault Refusal :=
  .next ((s.setA s.x).setP (s.p.setNZ s.x))

/-- R214: no flag is written. -/
def execTxs (s : State) : Host.Outcome State Fault Refusal :=
  .next (s.setSp s.x)

/-- R215. -/
def execTya (s : State) : Host.Outcome State Fault Refusal :=
  .next ((s.setA s.y).setP (s.p.setNZ s.y))

/-- R216. -/
def execInx (s : State) : Host.Outcome State Fault Refusal :=
  .next ((s.setX (incFlags s.p s.x).1).setP (incFlags s.p s.x).2)

/-- R217. -/
def execIny (s : State) : Host.Outcome State Fault Refusal :=
  .next ((s.setY (incFlags s.p s.y).1).setP (incFlags s.p s.y).2)

/-- R218. -/
def execDex (s : State) : Host.Outcome State Fault Refusal :=
  .next ((s.setX (decFlags s.p s.x).1).setP (decFlags s.p s.x).2)

/-- R219. -/
def execDey (s : State) : Host.Outcome State Fault Refusal :=
  .next ((s.setY (decFlags s.p s.y).1).setP (decFlags s.p s.y).2)

/-- R220. -/
def execInc (dst : MemOperand) (s : State) : Host.Outcome State Fault Refusal :=
  .next (modifyMemory dst incFlags s)

/-- R221. -/
def execDec (dst : MemOperand) (s : State) : Host.Outcome State Fault Refusal :=
  .next (modifyMemory dst decFlags s)

end Sys2Proof.Machine
end

