-- ==== Sys2Proof/Machine/Step.lean ====
section
/-! DEFINITION. One step (60_exceptions.md R260): refused before the first Reset, stuck in Halted, and in Running one
interrupt entry or one instruction. -/

namespace Sys2Proof.Machine

/-- R80: fetch, PC past the instruction, its meaning. -/
def State.dispatch (s : State) : Host.Outcome State Fault Refusal :=
  exec s.fetched (s.pastInstr s.fetched)

/-- R260: `ExecuteInstruction()`. -/
def step (s : State) : Host.Outcome State Fault Refusal :=
  match s.run with
  | .notReset => .refused .notStarted
  | .halted f => .fault f
  | .running =>
    match s.interrupt? with
    | some t => .next t
    | none   => s.dispatch

/-- The state with an instruction's bytes at PC, so that the next step runs it: the CORE is running, no NMI is latched,
and the IRQ line is not asserted unless I masks it (log entry 5). -/
def State.withFetchWord (s : State) (nbits w : Nat) : State :=
  let v := w % 2 ^ nbits
  let t := ((s.write s.pc (tableByte v 0)).write (s.pc + 1) (tableByte v 1)).write (s.pc + 2) (tableByte v 2)
  ((t.setRun .running).setNmi false).setIrq (s.irqLine && s.p.i)

end Sys2Proof.Machine
end

