-- ==== Sys2Proof/Machine/Bus.lean ====
section
/-! DEFINITION. The bus accesses of a step, in order (20_memory.md R61, 40_addressing.md R119): what a host that
intercepts the bus would see. Under `BUS = flat` they are not observable in the state (R59), so they are computed from
the state a step starts in and held nowhere (log entry 9). -/

namespace Sys2Proof.Machine

/-- One visible bus access (00_scope.md R10). -/
inductive Access where
  | read  (addr : Addr)
  | write (addr : Addr) (value : Byte)
  deriving DecidableEq, Repr

/-- What an access does to memory (R52). -/
def Access.apply (m : Memory) (acc : Access) : Memory :=
  match acc with
  | .read _    => m
  | .write a v => m.write a.toNat v

/-- R119: the pointer reads of a mode, low byte before high byte. -/
def resolveReads (m : MemOperand) (s : State) : List Access :=
  match m with
  | .zp _ | .zpx _ | .zpy _ | .abs _ | .absx _ | .absy _ => []
  | .ind p  => [.read p, .read (samePageNext p)]
  | .indx z => [.read (zext16 (z + s.x)), .read (zext16 (z + s.x + 1))]
  | .indy z => [.read (zext16 z), .read (zext16 (z + 1))]

/-- R115, R61: a read-type instruction reads EA once, after the resolver. -/
def sourceReads (src : Source) (s : State) : List Access :=
  match src with
  | .imm _ => []
  | .mem m => resolveReads m s ++ [.read (resolve m s)]

/-- R116: a store does not read EA. -/
def storeAccesses (m : MemOperand) (v : Byte) (s : State) : List Access :=
  resolveReads m s ++ [.write (resolve m s) v]

/-- R117: one read and one write of EA. -/
def modifyMemoryAccesses (m : MemOperand) (f : Flags → Byte → Byte × Flags) (s : State) : List Access :=
  resolveReads m s ++ [.read (resolve m s), .write (resolve m s) (f s.p (s.read (resolve m s))).1]

/-- R111, R117: accumulator mode makes no access. -/
def modifyAccesses (t : Target) (f : Flags → Byte → Byte × Flags) (s : State) : List Access :=
  match t with
  | .acc   => []
  | .mem m => modifyMemoryAccesses m f s

/-- R200: the read of the k-th pull from now, k counted from 1. -/
def pullRead (s : State) (k : Byte) : Access := .read (stackAddr (s.sp + k))

/-- R263: the accesses of interrupt entry. -/
def enterAccesses (s : State) (ret vec : Addr) (b : Bool) : List Access :=
  [.write (stackAddr s.sp) (hiByte ret), .write (stackAddr (s.sp - 1)) (loByte ret),
   .write (stackAddr (s.sp - 2)) (pushedStatus s.p b), .read vec, .read (vec + 1)]

/-- The accesses of an instruction after its own bytes are fetched; the state is the one its meaning is given. -/
def dataAccesses (i : Instr) (s : State) : List Access :=
  match i with
  | .lda src | .ldx src | .ldy src | .adc src | .sbc src | .and src | .ora src | .eor src | .bit src => sourceReads src s
  | .cmp src | .cpx src | .cpy src => sourceReads src s
  | .sta dst => storeAccesses dst s.a s
  | .stx dst => storeAccesses dst s.x s
  | .sty dst => storeAccesses dst s.y s
  | .asl tgt => modifyAccesses tgt aslFlags s
  | .lsr tgt => modifyAccesses tgt lsrFlags s
  | .rol tgt => modifyAccesses tgt rolFlags s
  | .ror tgt => modifyAccesses tgt rorFlags s
  | .inc dst => modifyMemoryAccesses dst incFlags s
  | .dec dst => modifyMemoryAccesses dst decFlags s
  | .pha => [.write (stackAddr s.sp) s.a]
  | .php => [.write (stackAddr s.sp) (pushedStatus s.p true)]
  | .pla | .plp => [pullRead s 1]
  | .jmp tgt => resolveReads tgt s
  | .jsr _ => [.write (stackAddr s.sp) (hiByte (s.pc - 1)), .write (stackAddr (s.sp - 1)) (loByte (s.pc - 1))]
  | .rts => [pullRead s 1, pullRead s 2]
  | .rti => [pullRead s 1, pullRead s 2, pullRead s 3]
  | .brk => enterAccesses s (s.pc + 1) Config.irqVector true
  | .bcc _ | .bcs _ | .beq _ | .bne _ | .bmi _ | .bpl _ | .bvc _ | .bvs _ => []
  | .tax | .tay | .tsx | .txa | .txs | .tya | .inx | .iny | .dex | .dey => []
  | .clc | .sec | .cli | .sei | .cld | .sed | .clv | .nop | .illegal _ => []

/-- R61: the reads of an instruction's own bytes, in increasing address order. -/
def fetchAccesses (i : Instr) (pc : Addr) : List Access :=
  (List.range i.length).map fun k => .read (pc + BitVec.ofNat 16 k)

/-- R61: the accesses of one step. An interrupt entry fetches no opcode; outside Running there is no access. -/
def stepAccesses (s : State) : List Access :=
  match s.run with
  | .notReset | .halted _ => []
  | .running =>
    if s.nmiPending then enterAccesses s s.pc Config.nmiVector false
    else if s.irqLine && !s.p.i then enterAccesses s s.pc Config.irqVector false
    else fetchAccesses s.fetched s.pc ++ dataAccesses s.fetched (s.pastInstr s.fetched)

/-- R290: "The reset vector reads are the only bus accesses." -/
def resetAccesses : List Access := [.read Config.resetVector, .read (Config.resetVector + 1)]

end Sys2Proof.Machine
end

