-- ==== Sys2Proof/Machine/HostOps.lean ====
section
/-! DEFINITION. The host's operations (60_exceptions.md R270), each atomic and only between steps: constructing the
machine, Reset, raw memory access, the flag interface, register access, the interrupt inputs, and Execute. -/

namespace Sys2Proof.Machine

/-- R270 `construct`: memory is the host's image, the run state NotReset. The registers are unspecified (R39): free
values (log entry 6). No NMI is latched, because only RequestNMI latches one (R35). -/
def construct (image : List (Addr × Byte)) : State where
  a := Config.powerUpA
  x := Config.powerUpX
  y := Config.powerUpY
  sp := Config.powerUpSP
  pc := Config.powerUpPC
  p := { n := Config.powerUpN, v := Config.powerUpV, d := Config.powerUpD,
         i := Config.powerUpI, z := Config.powerUpZ, c := Config.powerUpC }
  mem := Memory.ofImage image
  nmiPending := false
  irqLine := Config.powerUpIrqLine
  run := .notReset

/-- R290 `Reset()`: memory and the IRQ line stay as they are. -/
def State.hostReset (s : State) : State where
  a := 0x00
  x := 0x00
  y := 0x00
  sp := 0xFF
  pc := s.readPair Config.resetVector (Config.resetVector + 1)
  p := Flags.reset
  mem := s.mem
  nmiPending := false
  irqLine := s.irqLine
  run := .running

/-- R31: the eight flag masks, by the names of R26. -/
inductive FlagName where
  | c | z | i | d | b | u | v | n
  deriving DecidableEq, Repr

/-- R26: the mask of a flag. -/
def FlagName.mask : FlagName → Byte
  | .c => 0x01
  | .z => 0x02
  | .i => 0x04
  | .d => 0x08
  | .b => 0x10
  | .u => 0x20
  | .v => 0x40
  | .n => 0x80

/-- R31: what SetFlag does to P; B and U are not stored. -/
def Flags.setFlag (p : Flags) (f : FlagName) (b : Bool) : Flags :=
  match f with
  | .c => { p with c := b }
  | .z => { p with z := b }
  | .i => { p with i := b }
  | .d => { p with d := b }
  | .v => { p with v := b }
  | .n => { p with n := b }
  | .b => p
  | .u => p

/-- R31: GetFlag. GetFlag(U) is true and GetFlag(B) is false. -/
def Flags.getFlag (p : Flags) (f : FlagName) : Bool :=
  match f with
  | .c => p.c
  | .z => p.z
  | .i => p.i
  | .d => p.d
  | .v => p.v
  | .n => p.n
  | .b => false
  | .u => true

/-- R270: the host operations that change a constructed machine, other than the step. Register reads, Read and GetFlag
are the fields of State, State.read and Flags.getFlag. -/
inductive HostOp where
  | reset
  | write (a : Addr) (v : Byte)
  | setFlag (f : FlagName) (b : Bool)
  | setA (v : Byte)
  | setX (v : Byte)
  | setY (v : Byte)
  | setSP (v : Byte)
  | setPC (v : Addr)
  | requestNmi
  | setIrq (level : Bool)
  deriving DecidableEq, Repr

/-- R266, R270: the effect of a host operation. -/
def State.host (s : State) (op : HostOp) : State :=
  match op with
  | .reset       => s.hostReset
  | .write a v   => s.write a v
  | .setFlag f b => s.setP (s.p.setFlag f b)
  | .setA v      => s.setA v
  | .setX v      => s.setX v
  | .setY v      => s.setY v
  | .setSP v     => s.setSp v
  | .setPC v     => s.setPc v
  | .requestNmi  => s.setNmi true
  | .setIrq l    => s.setIrq l

/-- What can happen to a machine: a step or a host operation, never both at once (R270). -/
inductive Event where
  | step
  | host (op : HostOp)
  deriving DecidableEq, Repr

/-- The state after an event. A step that is refused, or that is stuck in Halted, changes nothing (R260). -/
def State.event (s : State) (e : Event) : State :=
  match e with
  | .host op => s.host op
  | .step =>
    match step s with
    | .next t    => t
    | .fault _   => s
    | .refused _ => s

/-- R62: the state after a sequence of events, in any interleaving the host chooses (log entry 15). -/
def State.events (s : State) (es : List Event) : State := es.foldl State.event s

/-- R272: how a run ends, with the state it ends in. `unfinished` is no end: the bound on the steps ran out. -/
inductive RunEnd where
  | normal (s : State)
  | faulted (f : Fault) (s : State)
  | refused (r : Refusal) (s : State)
  | unfinished (s : State)
  deriving DecidableEq, Repr

/-- R271 `Execute()` with the host's stop predicate STOP, for at most `fuel` steps (log entry 14). -/
def execute (stop : State → Bool) (fuel : Nat) (s : State) : RunEnd :=
  match s.run with
  | .notReset => .refused .notStarted s
  | .halted f => .faulted f s
  | .running =>
    if stop s then .normal s
    else
      match fuel with
      | 0 => .unfinished s
      | k + 1 =>
        match step s with
        | .next t    => execute stop k t
        | .fault f   => .faulted f s
        | .refused r => .refused r s

end Sys2Proof.Machine
end

