-- ==== Sys2Proof/Safety.lean ====
section
/-! DEFINITION. What every reachable state meets, what a safe run is, and the frames: what a step of the machine may
change, in the terms the statements use. -/

namespace Sys2Proof.Machine

/-- A recorded fault names an ILLEGAL byte (R251). -/
def Fault.lawful : Fault → Bool
  | .illegalOpcode op _ => op ∈ illegalBytes

/-- R37, R251: in Halted, the recorded fault is lawful. -/
def RunState.lawful : RunState → Bool
  | .notReset | .running => true
  | .halted f => f.lawful

/-- The invariant of the machine: memory is in its canonical form, and a recorded fault names an ILLEGAL byte. -/
def State.Inv (s : State) : Prop := s.mem.wf = true ∧ s.run.lawful = true

/-- A boundary at which a step takes place and no interrupt is due. -/
def State.Ready (s : State) : Prop :=
  s.run = .running ∧ s.nmiPending = false ∧ (s.irqLine && !s.p.i) = false

/-- A run that ended as the host asked (R272): not faulted, not refused, not cut short. -/
def RunEnd.safe : RunEnd → Bool
  | .normal _ => true
  | .faulted _ _ | .refused _ _ | .unfinished _ => false

/-! ## Frames -/

/-- The registers of R20, by name. -/
inductive Reg where
  | a | x | y | sp | pc
  deriving DecidableEq, Repr

/-- A register's value as a number. -/
def State.reg (s : State) (r : Reg) : Nat :=
  match r with
  | .a  => s.a.toNat
  | .x  => s.x.toNat
  | .y  => s.y.toNat
  | .sp => s.sp.toNat
  | .pc => s.pc.toNat

/-- From `s` to `t` at most these registers, these flags and these bytes of memory changed, and nothing else: the latched
NMI, the IRQ line and the run state are as before. -/
def Frame (s t : State) (regs : List Reg) (flags : List FlagName) (stored : List Addr) : Prop :=
  (∀ r, r ∉ regs → t.reg r = s.reg r) ∧
  (∀ f, f ∉ flags → t.p.getFlag f = s.p.getFlag f) ∧
  (∀ b, b ∉ stored → t.read b = s.read b) ∧
  t.nmiPending = s.nmiPending ∧ t.irqLine = s.irqLine ∧ t.run = s.run

/-- The six stored flags. -/
def storedFlags : List FlagName := [.c, .z, .i, .d, .v, .n]

/-- Z and N say of a result whether it is zero and whether its bit 7 is set (R30). -/
def NZ (p : Flags) (r : Byte) : Prop := (p.z = true ↔ r.toNat = 0) ∧ (p.n = true ↔ 128 ≤ r.toNat)

/-- The flags are those of a status byte: bits 0, 1, 2, 3, 6 and 7 (R29). -/
def FlagsOfByte (p : Flags) (v : Byte) : Prop :=
  p.c = v.getLsbD 0 ∧ p.z = v.getLsbD 1 ∧ p.i = v.getLsbD 2 ∧ p.d = v.getLsbD 3 ∧ p.v = v.getLsbD 6 ∧ p.n = v.getLsbD 7

/-- R263: `t` is `s` after interrupt entry with this return address, vector and break value: three bytes pushed, I set, PC
loaded from the vector. -/
def Entered (s t : State) (ret vec : Addr) (b : Bool) : Prop :=
  t.read (stackAddr s.sp) = hiByte ret ∧
  t.read (stackAddr (s.sp - 1)) = loByte ret ∧
  t.read (stackAddr (s.sp - 2)) = pushedStatus s.p b ∧
  t.sp = s.sp - 3 ∧
  t.p.i = true ∧
  t.pc.toNat = 256 * (s.read (vec + 1)).toNat + (s.read vec).toNat ∧
  (∀ r, r ≠ .sp → r ≠ .pc → t.reg r = s.reg r) ∧
  (∀ f, f ≠ .i → t.p.getFlag f = s.p.getFlag f) ∧
  (∀ a, a ∉ [stackAddr s.sp, stackAddr (s.sp - 1), stackAddr (s.sp - 2)] → t.read a = s.read a) ∧
  t.irqLine = s.irqLine ∧ t.run = s.run

end Sys2Proof.Machine

namespace Sys2Proof

open Machine

/-! ## Which instruction may change what -/

/-- The flag-writers table of 10_state.md (below R31): the flags an instruction may write. -/
def Instr.writesFlags : Instr → List FlagName
  | .adc _ | .sbc _ => [.n, .v, .z, .c]
  | .and _ | .ora _ | .eor _ => [.n, .z]
  | .bit _ => [.n, .v, .z]
  | .asl _ | .lsr _ | .rol _ | .ror _ => [.n, .z, .c]
  | .cmp _ | .cpx _ | .cpy _ => [.n, .z, .c]
  | .lda _ | .ldx _ | .ldy _ => [.n, .z]
  | .sta _ | .stx _ | .sty _ => []
  | .tax | .tay | .tsx | .txa | .tya => [.n, .z]
  | .txs => []
  | .inx | .iny | .dex | .dey | .inc _ | .dec _ => [.n, .z]
  | .pla => [.n, .z]
  | .plp | .rti => [.n, .v, .d, .i, .z, .c]
  | .clc | .sec => [.c]
  | .cli | .sei => [.i]
  | .cld | .sed => [.d]
  | .clv => [.v]
  | .brk => [.i]
  | .bcc _ | .bcs _ | .beq _ | .bne _ | .bmi _ | .bpl _ | .bvc _ | .bvs _ => []
  | .jmp _ | .jsr _ | .rts | .nop | .pha | .php | .illegal _ => []

/-- R21 to R25: the registers an instruction's own effect may write, beside the PC's advance past its bytes. -/
def Instr.writesRegs : Instr → List Reg
  | .lda _ | .adc _ | .sbc _ | .and _ | .ora _ | .eor _ => [.a]
  | .asl .acc | .lsr .acc | .rol .acc | .ror .acc => [.a]
  | .asl (.mem _) | .lsr (.mem _) | .rol (.mem _) | .ror (.mem _) => []
  | .txa | .tya => [.a]
  | .ldx _ | .tax | .tsx | .inx | .dex => [.x]
  | .ldy _ | .tay | .iny | .dey => [.y]
  | .txs | .pha | .php | .plp => [.sp]
  | .pla => [.a, .sp]
  | .bcc _ | .bcs _ | .beq _ | .bne _ | .bmi _ | .bpl _ | .bvc _ | .bvs _ | .jmp _ => [.pc]
  | .jsr _ | .rts | .brk | .rti => [.sp, .pc]
  | .sta _ | .stx _ | .sty _ | .bit _ | .cmp _ | .cpx _ | .cpy _ | .inc _ | .dec _ => []
  | .clc | .sec | .cli | .sei | .cld | .sed | .clv | .nop | .illegal _ => []

end Sys2Proof

namespace Sys2Proof.Machine

/-! ## An instruction's line of the table by mnemonic (30_encoding.md R84) -/

/-- The forms that encode are those of the line, each as its byte and the operand bytes. -/
def SourceLine (k : Source → Instr) (line : List (AddrMode × Byte)) : Prop :=
  ∀ o, encode (k o) = (line.lookup o.mode).map (· :: o.bytes)

def MemLine (k : MemOperand → Instr) (line : List (AddrMode × Byte)) : Prop :=
  ∀ o, encode (k o) = (line.lookup o.mode).map (· :: o.bytes)

def TargetLine (k : Target → Instr) (line : List (AddrMode × Byte)) : Prop :=
  ∀ o, encode (k o) = (line.lookup o.mode).map (· :: o.bytes)

/-! ## Shapes that several instructions share -/

/-- R117: a read-modify-write instruction relates the old value and flags to the new, in A or in the byte at EA. -/
def Modifies (k : Target → Instr) (rel : Flags → Byte → Flags → Byte → Prop) (flags : List FlagName) : Prop :=
  (∀ s, ∃ t, exec (k .acc) s = .next t ∧ rel s.p s.a t.p t.a ∧ Frame s t [.a] flags []) ∧
  (∀ m s, ∃ t, exec (k (.mem m)) s = .next t ∧
    rel s.p (s.read (resolve m s)) t.p (t.read (resolve m s)) ∧ Frame s t [] flags [resolve m s])

/-- R180: a conditional branch. PC is past the displacement; the target is PC plus the signed displacement, mod 2^16. -/
def Branches (k : Byte → Instr) (opcode : Byte) (cond : Flags → Bool) : Prop :=
  (∀ d, encode (k d) = some [opcode, d]) ∧
  ∀ d s, ∃ t, exec (k d) s = .next t ∧ Frame s t [.pc] [] [] ∧
    (cond s.p = false → t.pc = s.pc) ∧
    (cond s.p = true → (t.pc.toNat : Int) = ((s.pc.toNat : Int) + d.toInt) % 65536)

/-- A one-byte instruction that copies a value into a register and sets N and Z of it. -/
def Transfers (i : Instr) (opcode : Byte) (value : State → Nat) (dst : Reg) : Prop :=
  encode i = some [opcode] ∧
  ∀ s, ∃ t, exec i s = .next t ∧ t.reg dst = value s ∧
    (t.p.z = true ↔ value s = 0) ∧ (t.p.n = true ↔ 128 ≤ value s) ∧ Frame s t [dst] [.n, .z] []

/-- A one-byte instruction that gives one flag a value and does nothing else. -/
def SetsFlag (i : Instr) (opcode : Byte) (f : FlagName) (b : Bool) : Prop :=
  encode i = some [opcode] ∧
  ∀ s, ∃ t, exec i s = .next t ∧ t.p.getFlag f = b ∧ Frame s t [] [f] []

end Sys2Proof.Machine
end

