-- ==== Sys2Proof/Certificates/Slice0/Obligations.lean ====
section
/-! DEFINITION. What is stated about the machine, for the provers. A meaning is given a state whose PC is past the
instruction's bytes; StepRunsTheDecodedInstruction says how a step comes to it. -/

open Sys2Proof Sys2Proof.Machine

/-! ## Encoding (30_encoding.md) -/

/-- R81, R82, R84, R85: no bit of an encoding is dropped. -/
def Obligations.EncodedInstructionDecodesBack : Prop :=
  ∀ (i : Instr) (rest : List Byte), i.wellFormed = true →
    ∃ bs, encode i = some bs ∧ bs.length = i.length ∧ decode (bs ++ rest) = .ok (i, rest)

/-- R83, R86: what the decoder reads is a well-formed instruction, and its encoding is the bytes that were read. -/
def Obligations.DecodedBytesEncodeBack : Prop :=
  ∀ (bs : List Byte) (i : Instr) (rest : List Byte), decode bs = .ok (i, rest) →
    i.wellFormed = true ∧ ∃ e, encode i = some e ∧ e ++ rest = bs

/-- R84, R82: bytes written out from the spec's table and examples. -/
def Obligations.WrittenOutBytesDecode : Prop :=
  decode [0xA9, 0x05] = .ok (.lda (.imm 0x05), []) ∧
  decode [0x69, 0x03] = .ok (.adc (.imm 0x03), []) ∧
  decode [0xAD, 0x34, 0x12] = .ok (.lda (.mem (.abs 0x1234)), []) ∧
  decode [0x96, 0xF0] = .ok (.stx (.zpy 0xF0), []) ∧
  decode [0x6C, 0xFF, 0x10] = .ok (.jmp (.ind 0x10FF), []) ∧
  decode [0x91, 0xFB] = .ok (.sta (.indy 0xFB), []) ∧
  decode [0x0A] = .ok (.asl .acc, []) ∧
  decode [0x20, 0x00, 0x90] = .ok (.jsr 0x9000, []) ∧
  decode [0xD0, 0xF9] = .ok (.bne 0xF9, []) ∧
  decode [0x00, 0xEA] = .ok (.brk, [0xEA]) ∧
  decode [0x89, 0x00] = .ok (.illegal 0x89, [0x00])

/-- R85: the bytes that decode to ILLEGAL are the 105 the rule lists, without repetition. -/
def Obligations.TheListedBytesAreTheIllegalOnes : Prop :=
  (∀ op b1 b2 : Byte, decode [op, b1, b2] = .ok (.illegal op, [b1, b2]) ↔ op ∈ illegalBytes) ∧
  illegalBytes.length = 105 ∧ illegalBytes.Nodup

/-- The length depends on the opcode byte alone, is 1, 2 or 3, and is 1 for an ILLEGAL byte. Derived: this is R87, which the
spec itself marks as an inference from R80 and R81. -/
def Obligations.OpcodeByteAloneDecidesTheLength : Prop :=
  ∀ op : Byte, ∃ n : Nat, 1 ≤ n ∧ n ≤ 3 ∧ (op ∈ illegalBytes → n = 1) ∧
    ∀ (b1 b2 : Byte) (rest : List Byte), ∃ i : Instr,
      decode (op :: b1 :: b2 :: rest) = .ok (i, (op :: b1 :: b2 :: rest).drop n) ∧ i.length = n

/-! ## The step (60_exceptions.md) -/

/-- R80, R25: at a boundary where no interrupt is due, the bytes at PC decode, to a well-formed instruction, and the step
is that instruction's meaning with PC past its bytes, mod 2^16. -/
def Obligations.StepRunsTheDecodedInstruction : Prop :=
  (∀ (s : State) (i : Instr) (rest : List Byte), s.Ready →
    decode [s.read s.pc, s.read (s.pc + 1), s.read (s.pc + 2)] = .ok (i, rest) →
    step s = exec i (s.setPc (s.pc + BitVec.ofNat 16 i.length))) ∧
  (∀ s : State, ∃ i rest, i.wellFormed = true ∧
    decode [s.read s.pc, s.read (s.pc + 1), s.read (s.pc + 2)] = .ok (i, rest))

/-- R260: the five cases of a step, in the rule's order. -/
def Obligations.StepTakesOneOfFiveCases : Prop :=
  ∀ s : State,
    (s.run = .notReset → step s = .refused .notStarted) ∧
    (∀ f, s.run = .halted f → step s = .fault f) ∧
    (s.run = .running → s.nmiPending = true →
      step s = .next ((s.setNmi false).enter s.pc 0xFFFA false)) ∧
    (s.run = .running → s.nmiPending = false → s.irqLine = true → s.p.i = false →
      step s = .next (s.enter s.pc 0xFFFE false)) ∧
    (s.run = .running → s.nmiPending = false → (s.irqLine = false ∨ s.p.i = true) →
      step s = s.dispatch)

/-- R264, R263: IRQ is entered while the line is asserted, I is clear and no NMI is latched; the line is not cleared. -/
def Obligations.IrqIsEnteredWhileUnmasked : Prop :=
  ∀ s : State, s.run = .running → s.nmiPending = false → s.irqLine = true → s.p.i = false →
    ∃ t, step s = .next t ∧ Entered s t s.pc 0xFFFE false ∧ t.nmiPending = false ∧ t.irqLine = true

/-- R261, R263, R265: a latched NMI is entered at a boundary whatever I and the IRQ line are, and the latch is cleared. The
IRQ line is as before (Entered says so), and the boundary after it enters no interrupt, since the entry set I. -/
def Obligations.NmiIsEnteredWhateverTheMaskAndTheIrqWaits : Prop :=
  ∀ s : State, s.run = .running → s.nmiPending = true →
    ∃ t, step s = .next t ∧ Entered s t s.pc 0xFFFA false ∧ t.nmiPending = false ∧ t.Ready

/-- R232, R262: an IRQ held by the mask is entered at the very next boundary after CLI. -/
def Obligations.IrqFollowsCliWithoutDelay : Prop :=
  ∀ s : State, s.Ready → s.irqLine = true → s.read s.pc = 0x58 →
    ∃ t u, step s = .next t ∧ t.p.i = false ∧ t.pc = s.pc + 1 ∧ step t = .next u ∧ Entered t u t.pc 0xFFFE false

/-- R251: the trap. The fault records the byte and its address, PC is one past it, nothing else changes, and the machine
then has no step. On the meaning, PC is already one past the byte. -/
def Obligations.IllegalByteHaltsAndNothingElse : Prop :=
  (∀ s : State, s.Ready → s.read s.pc ∈ illegalBytes →
    ∃ t, step s = .next t ∧ t = (s.setPc (s.pc + 1)).setRun (.halted (.illegalOpcode (s.read s.pc) s.pc)) ∧
      step t = .fault (.illegalOpcode (s.read s.pc) s.pc)) ∧
  (∀ (op : Byte) (s : State),
    ∃ t, exec (.illegal op) s = .next t ∧ t = s.setRun (.halted (.illegalOpcode op (s.pc - 1))))

/-- R252, R275: every instruction completes in every state, and only ILLEGAL changes the run state; so a legal byte at PC
runs to its next state in every state that is ready, and the machine keeps running. -/
def Obligations.EveryInstructionCompletesAndLegalOnesNeverHalt : Prop :=
  (∀ (i : Instr) (s : State), ∃ t, exec i s = .next t ∧ ((∀ op, i ≠ .illegal op) → t.run = s.run)) ∧
  (∀ s : State, s.Ready → s.read s.pc ∉ illegalBytes → ∃ t, step s = .next t ∧ t.run = .running)

/-! ## The status register (10_state.md) -/

/-- R26, R27, R28, R29: P as read has the flags at their bits, 0 at bit 4 and 1 at bit 5. A pushed status byte has the same
but for the break value at bit 4. A byte restores to the flags at its bits, whatever its bits 4 and 5, so that restoring a
pushed byte gives the flags back. -/
def Obligations.StatusBytesCarryTheSixFlags : Prop :=
  ∀ (p : Flags) (b : Bool) (v : Byte),
    FlagsOfByte p p.toByte ∧ p.toByte.getLsbD 4 = false ∧ p.toByte.getLsbD 5 = true ∧
    FlagsOfByte p (pushedStatus p b) ∧ (pushedStatus p b).getLsbD 4 = b ∧ (pushedStatus p b).getLsbD 5 = true ∧
    FlagsOfByte (restoreStatus v) v ∧ restoreStatus (pushedStatus p b) = p

/-- R31: the host's flag interface, on the status byte: GetFlag tests the mask's bit; SetFlag writes the named stored
flag and no other, and has no effect for B and U. -/
def Obligations.HostFlagInterface : Prop :=
  ∀ (p : Flags) (f : FlagName) (b : Bool),
    (p.getFlag f = true ↔ p.toByte &&& f.mask ≠ 0) ∧
    (∀ g, g ≠ f → (p.setFlag f b).getFlag g = p.getFlag g) ∧
    (f ∈ storedFlags → (p.setFlag f b).getFlag f = b) ∧
    (f ∉ storedFlags → p.setFlag f b = p)

/-! ## Memory (20_memory.md) -/

/-- R52: a write sets one byte and touches no other byte and no register, at every address, those of the peripheral
windows and the vectors (R57, R58) among them. -/
def Obligations.WriteSetsOneByteOnly : Prop :=
  ∀ (s : State) (a : Addr) (v : Byte), (s.write a v).read a = v ∧ Frame s (s.write a v) [] [] [a]

/-- Two memories in canonical form that read alike at every address are equal (the model's representation, log entry 2). -/
def Obligations.CanonicalMemoriesThatReadAlikeAreEqual : Prop :=
  ∀ m n : Memory, m.wf = true → n.wf = true → (∀ a : Addr, m.read a.toNat = n.read a.toNat) → m = n

/-- R67: a byte of the host's image reads back after construction, before and after Reset; a byte outside the image reads
as the model's choice of log entry 1. -/
def Obligations.ImageBytesReadBack : Prop :=
  ∀ image : List (Addr × Byte), (image.map Prod.fst).Nodup →
    (∀ c ∈ image, (construct image).read c.1 = c.2 ∧ (construct image).hostReset.read c.1 = c.2) ∧
    (∀ a, a ∉ image.map Prod.fst → (construct image).read a = Config.unlistedByte)

/-- R65, R55: the next fetch sees what was stored at PC, wherever PC is. -/
def Obligations.FetchSeesWhatWasStored : Prop :=
  ∀ (s : State) (op b1 b2 : Byte) (i : Instr) (rest : List Byte), decode [op, b1, b2] = .ok (i, rest) →
    (((s.write s.pc op).write (s.pc + 1) b1).write (s.pc + 2) b2).fetched = i

/-! ## Addressing modes (40_addressing.md) -/

/-- R102 to R107: the zero-page modes wrap within page 0, the absolute modes add their index mod 2^16. -/
def Obligations.ZeroPageWrapsAt256AndAbsoluteAt64K : Prop :=
  ∀ (z : Byte) (a : Addr) (s : State),
    (resolve (.zp z) s).toNat = z.toNat ∧
    (resolve (.zpx z) s).toNat = (z.toNat + s.x.toNat) % 256 ∧
    (resolve (.zpy z) s).toNat = (z.toNat + s.y.toNat) % 256 ∧
    resolve (.abs a) s = a ∧
    (resolve (.absx a) s).toNat = (a.toNat + s.x.toNat) % 65536 ∧
    (resolve (.absy a) s).toNat = (a.toNat + s.y.toNat) % 65536

/-- R108: the pointer's high byte comes from the same page. -/
def Obligations.IndirectPointerStaysInItsPage : Prop :=
  ∀ (p : Addr) (s : State), ∃ q : Addr,
    q.toNat = p.toNat / 256 * 256 + (p.toNat + 1) % 256 ∧
    (resolve (.ind p) s).toNat = 256 * (s.read q).toNat + (s.read p).toNat

/-- R109, R110: the pointer is read from page 0, at z + X or at z, its high byte at the next address mod 256; the
indirect-indexed mode then adds Y mod 2^16. -/
def Obligations.ZeroPagePointersWrapInPageZero : Prop :=
  ∀ (z : Byte) (s : State),
    (∃ lo hi : Addr, lo.toNat = (z.toNat + s.x.toNat) % 256 ∧ hi.toNat = (lo.toNat + 1) % 256 ∧
      (resolve (.indx z) s).toNat = 256 * (s.read hi).toNat + (s.read lo).toNat) ∧
    (∃ lo hi : Addr, lo.toNat = z.toNat ∧ hi.toNat = (lo.toNat + 1) % 256 ∧
      (resolve (.indy z) s).toNat = (256 * (s.read hi).toNat + (s.read lo).toNat + s.y.toNat) % 65536)

/-! ## Loads and stores (41_load_store.md) -/

/-- R130, R131, R132. -/
def Obligations.LoadsFillTheirRegister : Prop :=
  (SourceLine .lda [(.imm, 0xA9), (.zp, 0xA5), (.zpx, 0xB5), (.abs, 0xAD), (.absx, 0xBD), (.absy, 0xB9),
      (.indx, 0xA1), (.indy, 0xB1)] ∧
    ∀ src s, ∃ t, exec (.lda src) s = .next t ∧ t.a = sourceValue src s ∧ NZ t.p t.a ∧ Frame s t [.a] [.n, .z] []) ∧
  (SourceLine .ldx [(.imm, 0xA2), (.zp, 0xA6), (.zpy, 0xB6), (.abs, 0xAE), (.absy, 0xBE)] ∧
    ∀ src s, ∃ t, exec (.ldx src) s = .next t ∧ t.x = sourceValue src s ∧ NZ t.p t.x ∧ Frame s t [.x] [.n, .z] []) ∧
  (SourceLine .ldy [(.imm, 0xA0), (.zp, 0xA4), (.zpx, 0xB4), (.abs, 0xAC), (.absx, 0xBC)] ∧
    ∀ src s, ∃ t, exec (.ldy src) s = .next t ∧ t.y = sourceValue src s ∧ NZ t.p t.y ∧ Frame s t [.y] [.n, .z] [])

/-- R133, R134, R135. -/
def Obligations.StoresWriteOneByteAndNoFlag : Prop :=
  (MemLine .sta [(.zp, 0x85), (.zpx, 0x95), (.abs, 0x8D), (.absx, 0x9D), (.absy, 0x99), (.indx, 0x81), (.indy, 0x91)] ∧
    ∀ m s, ∃ t, exec (.sta m) s = .next t ∧ t.read (resolve m s) = s.a ∧ Frame s t [] [] [resolve m s]) ∧
  (MemLine .stx [(.zp, 0x86), (.zpy, 0x96), (.abs, 0x8E)] ∧
    ∀ m s, ∃ t, exec (.stx m) s = .next t ∧ t.read (resolve m s) = s.x ∧ Frame s t [] [] [resolve m s]) ∧
  (MemLine .sty [(.zp, 0x84), (.zpx, 0x94), (.abs, 0x8C)] ∧
    ∀ m s, ∃ t, exec (.sty m) s = .next t ∧ t.read (resolve m s) = s.y ∧ Frame s t [] [] [resolve m s])

/-! ## Arithmetic (42_arithmetic.md) -/

/-- R140: the binary sum with carry, whatever D is. -/
def Obligations.AdcAddsWithCarry : Prop :=
  SourceLine .adc [(.imm, 0x69), (.zp, 0x65), (.zpx, 0x75), (.abs, 0x6D), (.absx, 0x7D), (.absy, 0x79),
    (.indx, 0x61), (.indy, 0x71)] ∧
  ∀ src s, ∃ t, exec (.adc src) s = .next t ∧
    t.a.toNat = (s.a.toNat + (sourceValue src s).toNat + s.p.c.toNat) % 256 ∧
    (t.p.c = true ↔ 255 < s.a.toNat + (sourceValue src s).toNat + s.p.c.toNat) ∧
    (t.p.v = true ↔ s.a.msb = (sourceValue src s).msb ∧ s.a.msb ≠ t.a.msb) ∧
    NZ t.p t.a ∧ Frame s t [.a] [.n, .v, .z, .c] []

/-- R141: the binary difference; carry is not-borrow. -/
def Obligations.SbcSubtractsWithBorrow : Prop :=
  SourceLine .sbc [(.imm, 0xE9), (.zp, 0xE5), (.zpx, 0xF5), (.abs, 0xED), (.absx, 0xFD), (.absy, 0xF9),
    (.indx, 0xE1), (.indy, 0xF1)] ∧
  ∀ src s, ∃ t, exec (.sbc src) s = .next t ∧
    t.a.toNat = (s.a.toNat + (255 - (sourceValue src s).toNat) + s.p.c.toNat) % 256 ∧
    (t.p.c = true ↔ (sourceValue src s).toNat + (1 - s.p.c.toNat) ≤ s.a.toNat) ∧
    (t.p.v = true ↔ s.a.msb ≠ (sourceValue src s).msb ∧ s.a.msb ≠ t.a.msb) ∧
    NZ t.p t.a ∧ Frame s t [.a] [.n, .v, .z, .c] []

/-- R142: operands are two's complement for V: V is set exactly when the exact signed result does not fit 8 bits. -/
def Obligations.OverflowIsSignedOverflow : Prop :=
  ∀ (src : Source) (s : State),
    (∃ t, exec (.adc src) s = .next t ∧
      (t.p.v = true ↔ ¬ (-128 ≤ s.a.toInt + (sourceValue src s).toInt + s.p.c.toNat ∧
        s.a.toInt + (sourceValue src s).toInt + s.p.c.toNat ≤ 127))) ∧
    (∃ t, exec (.sbc src) s = .next t ∧
      (t.p.v = true ↔ ¬ (-128 ≤ s.a.toInt - (sourceValue src s).toInt - (1 - (s.p.c.toNat : Int)) ∧
        s.a.toInt - (sourceValue src s).toInt - (1 - (s.p.c.toNat : Int)) ≤ 127)))

/-- R143: D reaches no computation: an instruction that neither writes D nor pushes or pulls the status byte does the same
with either value of D. -/
def Obligations.DecimalFlagReachesNoComputation : Prop :=
  ∀ (i : Instr) (s : State) (b : Bool), i ∉ [.php, .plp, .brk, .rti, .cld, .sed] →
    ∃ t, exec i s = .next t ∧
      exec i (s.setP (s.p.setFlag .d b)) = .next (t.setP (t.p.setFlag .d b))

/-! ## Logic (43_logic.md) -/

/-- R150, R151, R152, bit by bit. -/
def Obligations.LogicWorksBitByBit : Prop :=
  (SourceLine .and [(.imm, 0x29), (.zp, 0x25), (.zpx, 0x35), (.abs, 0x2D), (.absx, 0x3D), (.absy, 0x39),
      (.indx, 0x21), (.indy, 0x31)] ∧
    ∀ src s, ∃ t, exec (.and src) s = .next t ∧
      (∀ k, t.a.getLsbD k = (s.a.getLsbD k && (sourceValue src s).getLsbD k)) ∧ NZ t.p t.a ∧
      Frame s t [.a] [.n, .z] []) ∧
  (SourceLine .ora [(.imm, 0x09), (.zp, 0x05), (.zpx, 0x15), (.abs, 0x0D), (.absx, 0x1D), (.absy, 0x19),
      (.indx, 0x01), (.indy, 0x11)] ∧
    ∀ src s, ∃ t, exec (.ora src) s = .next t ∧
      (∀ k, t.a.getLsbD k = (s.a.getLsbD k || (sourceValue src s).getLsbD k)) ∧ NZ t.p t.a ∧
      Frame s t [.a] [.n, .z] []) ∧
  (SourceLine .eor [(.imm, 0x49), (.zp, 0x45), (.zpx, 0x55), (.abs, 0x4D), (.absx, 0x5D), (.absy, 0x59),
      (.indx, 0x41), (.indy, 0x51)] ∧
    ∀ src s, ∃ t, exec (.eor src) s = .next t ∧
      (∀ k, t.a.getLsbD k = (s.a.getLsbD k != (sourceValue src s).getLsbD k)) ∧ NZ t.p t.a ∧
      Frame s t [.a] [.n, .z] [])

/-- R153: BIT takes N and V from the operand and Z from the conjunction, and writes no register. -/
def Obligations.BitTestsWithoutWriting : Prop :=
  SourceLine .bit [(.zp, 0x24), (.abs, 0x2C)] ∧
  ∀ src s, ∃ t, exec (.bit src) s = .next t ∧
    (t.p.z = true ↔ ∀ k, (s.a.getLsbD k && (sourceValue src s).getLsbD k) = false) ∧
    (t.p.n = true ↔ 128 ≤ (sourceValue src s).toNat) ∧
    (t.p.v = true ↔ 64 ≤ (sourceValue src s).toNat % 128) ∧
    Frame s t [] [.n, .v, .z] []

/-! ## Shifts and rotates (44_shift_rotate.md) -/

/-- R160 to R163, on the accumulator and on memory: the bit shifted out becomes C, and a rotate feeds the old carry into
the vacated bit. -/
def Obligations.ShiftsAndRotatesMoveOneBitIntoCarry : Prop :=
  (TargetLine .asl [(.zp, 0x06), (.zpx, 0x16), (.abs, 0x0E), (.absx, 0x1E), (.acc, 0x0A)] ∧
    Modifies .asl (fun _ v q r => r.toNat = 2 * v.toNat % 256 ∧ (q.c = true ↔ 128 ≤ v.toNat) ∧ NZ q r) [.n, .z, .c]) ∧
  (TargetLine .lsr [(.zp, 0x46), (.zpx, 0x56), (.abs, 0x4E), (.absx, 0x5E), (.acc, 0x4A)] ∧
    Modifies .lsr (fun _ v q r => r.toNat = v.toNat / 2 ∧ (q.c = true ↔ v.toNat % 2 = 1) ∧ q.n = false ∧ NZ q r)
      [.n, .z, .c]) ∧
  (TargetLine .rol [(.zp, 0x26), (.zpx, 0x36), (.abs, 0x2E), (.absx, 0x3E), (.acc, 0x2A)] ∧
    Modifies .rol (fun p v q r => r.toNat = (2 * v.toNat + p.c.toNat) % 256 ∧ (q.c = true ↔ 128 ≤ v.toNat) ∧ NZ q r)
      [.n, .z, .c]) ∧
  (TargetLine .ror [(.zp, 0x66), (.zpx, 0x76), (.abs, 0x6E), (.absx, 0x7E), (.acc, 0x6A)] ∧
    Modifies .ror (fun p v q r => r.toNat = v.toNat / 2 + 128 * p.c.toNat ∧ (q.c = true ↔ v.toNat % 2 = 1) ∧
      q.n = p.c ∧ NZ q r) [.n, .z, .c])

/-! ## Compares (45_compare.md) -/

/-- R170, R171, R172. -/
def Obligations.ComparesOrderUnsigned : Prop :=
  (SourceLine .cmp [(.imm, 0xC9), (.zp, 0xC5), (.zpx, 0xD5), (.abs, 0xCD), (.absx, 0xDD), (.absy, 0xD9),
      (.indx, 0xC1), (.indy, 0xD1)] ∧
    ∀ src s, ∃ t, exec (.cmp src) s = .next t ∧
      (t.p.c = true ↔ (sourceValue src s).toNat ≤ s.a.toNat) ∧ (t.p.z = true ↔ s.a.toNat = (sourceValue src s).toNat) ∧
      (t.p.n = true ↔ 128 ≤ (s.a.toNat + 256 - (sourceValue src s).toNat) % 256) ∧ Frame s t [] [.n, .z, .c] []) ∧
  (SourceLine .cpx [(.imm, 0xE0), (.zp, 0xE4), (.abs, 0xEC)] ∧
    ∀ src s, ∃ t, exec (.cpx src) s = .next t ∧
      (t.p.c = true ↔ (sourceValue src s).toNat ≤ s.x.toNat) ∧ (t.p.z = true ↔ s.x.toNat = (sourceValue src s).toNat) ∧
      (t.p.n = true ↔ 128 ≤ (s.x.toNat + 256 - (sourceValue src s).toNat) % 256) ∧ Frame s t [] [.n, .z, .c] []) ∧
  (SourceLine .cpy [(.imm, 0xC0), (.zp, 0xC4), (.abs, 0xCC)] ∧
    ∀ src s, ∃ t, exec (.cpy src) s = .next t ∧
      (t.p.c = true ↔ (sourceValue src s).toNat ≤ s.y.toNat) ∧ (t.p.z = true ↔ s.y.toNat = (sourceValue src s).toNat) ∧
      (t.p.n = true ↔ 128 ≤ (s.y.toNat + 256 - (sourceValue src s).toNat) % 256) ∧ Frame s t [] [.n, .z, .c] [])

/-! ## Branches (46_branch.md) -/

/-- R180 to R188. -/
def Obligations.BranchesMovePcByTheSignedDisplacement : Prop :=
  Branches .bcc 0x90 (fun p => !p.c) ∧ Branches .bcs 0xB0 (fun p => p.c) ∧
  Branches .beq 0xF0 (fun p => p.z) ∧ Branches .bne 0xD0 (fun p => !p.z) ∧
  Branches .bmi 0x30 (fun p => p.n) ∧ Branches .bpl 0x10 (fun p => !p.n) ∧
  Branches .bvc 0x50 (fun p => !p.v) ∧ Branches .bvs 0x70 (fun p => p.v)

/-! ## The stack (47_stack.md) -/

/-- R200: a push stores at 0x0100 plus SP and then decrements SP, a pull increments SP and then reads. -/
def Obligations.PushAndPullStayInPageOne : Prop :=
  ∀ (s : State) (v : Byte) (sp : Byte),
    (stackAddr sp).toNat = 256 + sp.toNat ∧
    (s.push v).read (stackAddr s.sp) = v ∧ (s.push v).sp.toNat = (s.sp.toNat + 255) % 256 ∧
    Frame s (s.push v) [.sp] [] [stackAddr s.sp] ∧
    s.pulled = s.read (stackAddr (s.sp + 1)) ∧ s.afterPull.sp.toNat = (s.sp.toNat + 1) % 256 ∧
    Frame s s.afterPull [.sp] [] []

/-- R200: any number of pushes moves SP by that number mod 256 and touches no byte outside page 1; of up to 256 pushes
each byte stands at its own place in page 1. -/
def Obligations.PushesWrapWithinPageOne : Prop :=
  ∀ (vs : List Byte) (s : State),
    (vs.foldl State.push s).sp = s.sp - BitVec.ofNat 8 vs.length ∧
    (∀ a : Addr, a.toNat / 256 ≠ 1 → (vs.foldl State.push s).read a = s.read a) ∧
    (vs.length ≤ 256 → ∀ (k : Nat) (v : Byte), vs[k]? = some v →
      (vs.foldl State.push s).read (stackAddr (s.sp - BitVec.ofNat 8 k)) = v)

/-- R201 to R204. -/
def Obligations.StackInstructionsMoveOneByte : Prop :=
  (encode .pha = some [0x48] ∧ ∀ s, ∃ t, exec .pha s = .next t ∧ t.read (stackAddr s.sp) = s.a ∧
    t.sp = s.sp - 1 ∧ Frame s t [.sp] [] [stackAddr s.sp]) ∧
  (encode .php = some [0x08] ∧ ∀ s, ∃ t, exec .php s = .next t ∧ FlagsOfByte s.p (t.read (stackAddr s.sp)) ∧
    (t.read (stackAddr s.sp)).getLsbD 4 = true ∧ (t.read (stackAddr s.sp)).getLsbD 5 = true ∧
    t.sp = s.sp - 1 ∧ Frame s t [.sp] [] [stackAddr s.sp]) ∧
  (encode .pla = some [0x68] ∧ ∀ s, ∃ t, exec .pla s = .next t ∧ t.a = s.read (stackAddr (s.sp + 1)) ∧ NZ t.p t.a ∧
    t.sp = s.sp + 1 ∧ Frame s t [.a, .sp] [.n, .z] []) ∧
  (encode .plp = some [0x28] ∧ ∀ s, ∃ t, exec .plp s = .next t ∧ FlagsOfByte t.p (s.read (stackAddr (s.sp + 1))) ∧
    t.sp = s.sp + 1 ∧ Frame s t [.sp] storedFlags [])

/-- R202, R204: pulling what was pushed gives A, or P, back, and SP too. -/
def Obligations.PullUndoesPush : Prop :=
  ∀ s : State,
    (∃ t u, exec .pha s = .next t ∧ exec .pla t = .next u ∧ u.a = s.a ∧ u.sp = s.sp) ∧
    (∃ t u, exec .php s = .next t ∧ exec .plp t = .next u ∧ u.p = s.p ∧ u.sp = s.sp)

/-! ## Transfers, increments and decrements (48_transfer_incdec.md) -/

/-- R210 to R213, R215 and R216 to R219: copies, and increments and decrements mod 256 that write no carry. -/
def Obligations.TransfersAndCountsSetNZ : Prop :=
  Transfers .tax 0xAA (fun s => s.a.toNat) .x ∧ Transfers .tay 0xA8 (fun s => s.a.toNat) .y ∧
  Transfers .tsx 0xBA (fun s => s.sp.toNat) .x ∧ Transfers .txa 0x8A (fun s => s.x.toNat) .a ∧
  Transfers .tya 0x98 (fun s => s.y.toNat) .a ∧
  Transfers .inx 0xE8 (fun s => (s.x.toNat + 1) % 256) .x ∧ Transfers .iny 0xC8 (fun s => (s.y.toNat + 1) % 256) .y ∧
  Transfers .dex 0xCA (fun s => (s.x.toNat + 255) % 256) .x ∧ Transfers .dey 0x88 (fun s => (s.y.toNat + 255) % 256) .y

/-- R214, R245: TXS alone of the transfers writes no flag; NOP changes nothing. -/
def Obligations.TxsAndNopWriteNoFlag : Prop :=
  (encode .txs = some [0x9A] ∧ ∀ s, ∃ t, exec .txs s = .next t ∧ t.sp = s.x ∧ Frame s t [.sp] [] []) ∧
  (encode .nop = some [0xEA] ∧ ∀ s, exec .nop s = .next s)

/-- R220, R221. -/
def Obligations.IncAndDecCountMemoryModulo256 : Prop :=
  (MemLine .inc [(.zp, 0xE6), (.zpx, 0xF6), (.abs, 0xEE), (.absx, 0xFE)] ∧
    ∀ m s, ∃ t, exec (.inc m) s = .next t ∧
      (t.read (resolve m s)).toNat = ((s.read (resolve m s)).toNat + 1) % 256 ∧ NZ t.p (t.read (resolve m s)) ∧
      Frame s t [] [.n, .z] [resolve m s]) ∧
  (MemLine .dec [(.zp, 0xC6), (.zpx, 0xD6), (.abs, 0xCE), (.absx, 0xDE)] ∧
    ∀ m s, ∃ t, exec (.dec m) s = .next t ∧
      (t.read (resolve m s)).toNat = ((s.read (resolve m s)).toNat + 255) % 256 ∧ NZ t.p (t.read (resolve m s)) ∧
      Frame s t [] [.n, .z] [resolve m s])

/-! ## Flag instructions and control transfer (49_flags_control.md) -/

/-- R230 to R236. -/
def Obligations.FlagInstructionsWriteOneFlag : Prop :=
  SetsFlag .clc 0x18 .c false ∧ SetsFlag .sec 0x38 .c true ∧ SetsFlag .cli 0x58 .i false ∧ SetsFlag .sei 0x78 .i true ∧
  SetsFlag .cld 0xD8 .d false ∧ SetsFlag .sed 0xF8 .d true ∧ SetsFlag .clv 0xB8 .v false

/-- R240, R108. -/
def Obligations.JmpLoadsPc : Prop :=
  MemLine .jmp [(.abs, 0x4C), (.ind, 0x6C)] ∧
  (∀ m s, ∃ t, exec (.jmp m) s = .next t ∧ t.pc = resolve m s ∧ Frame s t [.pc] [] []) ∧
  (∀ (p : Addr) s, ∃ t, exec (.jmp (.ind p)) s = .next t ∧ ∃ q : Addr,
    q.toNat = (if p.toNat % 256 = 255 then p.toNat - 255 else p.toNat + 1) ∧
    t.pc.toNat = 256 * (s.read q).toNat + (s.read p).toNat)

/-- R241: the address of JSR's last byte, one before PC, is pushed high byte first. -/
def Obligations.JsrPushesItsLastByteAddress : Prop :=
  (∀ a, encode (.jsr a) = some [0x20, loByte a, hiByte a]) ∧
  ∀ a s, ∃ t, exec (.jsr a) s = .next t ∧ t.pc = a ∧ t.sp = s.sp - 2 ∧
    256 * (t.read (stackAddr s.sp)).toNat + (t.read (stackAddr (s.sp - 1))).toNat = (s.pc.toNat + 65535) % 65536 ∧
    Frame s t [.pc, .sp] [] [stackAddr s.sp, stackAddr (s.sp - 1)]

/-- R242: PC is the pulled address plus 1, mod 2^16. -/
def Obligations.RtsReturnsPastThePulledAddress : Prop :=
  encode .rts = some [0x60] ∧
  ∀ s, ∃ t, exec .rts s = .next t ∧ t.sp = s.sp + 2 ∧
    t.pc.toNat = (256 * (s.read (stackAddr (s.sp + 2))).toNat + (s.read (stackAddr (s.sp + 1))).toNat + 1) % 65536 ∧
    Frame s t [.pc, .sp] [] []

/-- R241, R242: RTS returns behind its JSR, from any state that has JSR's SP and its two stack bytes. -/
def Obligations.RtsReturnsBehindItsJsr : Prop :=
  ∀ (a : Addr) (s : State), ∃ t, exec (.jsr a) s = .next t ∧
    ∀ h : State, h.sp = t.sp → h.read (stackAddr s.sp) = t.read (stackAddr s.sp) →
      h.read (stackAddr (s.sp - 1)) = t.read (stackAddr (s.sp - 1)) →
      ∃ u, exec .rts h = .next u ∧ u.pc = s.pc ∧ u.sp = s.sp

/-- R243, R263: BRK, whatever I is, enters through the IRQ vector with the address past its padding byte. -/
def Obligations.BrkEntersWithTheBreakBit : Prop :=
  encode .brk = some [0x00] ∧
  ∀ s, ∃ t, exec .brk s = .next t ∧ Entered s t (s.pc + 1) 0xFFFE true ∧ t.nmiPending = s.nmiPending

/-- R244: status, then PC, no increment. -/
def Obligations.RtiRestoresStatusThenPc : Prop :=
  encode .rti = some [0x40] ∧
  ∀ s, ∃ t, exec .rti s = .next t ∧ FlagsOfByte t.p (s.read (stackAddr (s.sp + 1))) ∧
    t.pc.toNat = 256 * (s.read (stackAddr (s.sp + 3))).toNat + (s.read (stackAddr (s.sp + 2))).toNat ∧
    t.sp = s.sp + 3 ∧ Frame s t [.pc, .sp] storedFlags []

/-- R267, R244: RTI from a handler that has the entry's SP and its three stack bytes resumes at the return address with
the status and the SP of before the entry, whichever interrupt it was. -/
def Obligations.RtiResumesWhatEntryInterrupted : Prop :=
  ∀ (s t h : State) (ret vec : Addr) (b : Bool), Entered s t ret vec b → h.sp = t.sp →
    (∀ a ∈ [stackAddr s.sp, stackAddr (s.sp - 1), stackAddr (s.sp - 2)], h.read a = t.read a) →
    ∃ u, exec .rti h = .next u ∧ u.pc = ret ∧ u.p = s.p ∧ u.sp = s.sp

/-! ## Reset and the host (70_reset_and_hazards.md, 60_exceptions.md) -/

/-- R290, R38: what Reset leaves, from any state. -/
def Obligations.ResetLoadsTheVectorAndTheStatedValues : Prop :=
  ∀ s : State, (s.host .reset).a = 0x00 ∧ (s.host .reset).x = 0x00 ∧ (s.host .reset).y = 0x00 ∧
    (s.host .reset).sp = 0xFF ∧ (s.host .reset).p.toByte = 0x24 ∧
    (s.host .reset).pc.toNat = 256 * (s.read 0xFFFD).toNat + (s.read 0xFFFC).toNat ∧
    (s.host .reset).mem = s.mem ∧ (s.host .reset).nmiPending = false ∧ (s.host .reset).irqLine = s.irqLine ∧
    (s.host .reset).run = .running

/-- The model's state after reset is Reset of a machine constructed without an image, its IRQ line not asserted (the
line's level and the byte an unloaded address reads as are the model's choices, log entries 1, 3 and 4). -/
def Obligations.ResetStateIsResetOfAnEmptyMachine : Prop :=
  State.reset = ((construct []).host (.setIrq false)).host .reset ∧ State.reset.p.toByte = 0x24 ∧
    State.reset.sp = 0xFF ∧ State.reset.run = .running ∧ ∀ a : Addr, State.reset.read a = 0x00

/-- R292: Reset always leaves Running and no NMI latched, and without it nothing leads out of Halted or NotReset. -/
def Obligations.OnlyResetLeavesHaltedOrNotReset : Prop :=
  (∀ s : State, (s.host .reset).run = .running ∧ (s.host .reset).nmiPending = false) ∧
  ∀ (s : State) (es : List Event), s.run ≠ .running → (∀ e ∈ es, e ≠ .host .reset) →
    (s.events es).run = s.run

/-- R272: Execute ends normally only in Running with STOP true, faulted only in Halted, refused only in NotReset. -/
def Obligations.ExecuteEndsInOneOfThreeWays : Prop :=
  ∀ (stop : State → Bool) (fuel : Nat) (s t : State),
    (execute stop fuel s = .normal t → t.run = .running ∧ stop t = true) ∧
    (∀ f, execute stop fuel s = .faulted f t → t.run = .halted f) ∧
    (∀ r, execute stop fuel s = .refused r t → t.run = .notReset ∧ r = .notStarted)

/-! ## Invariants and whole-machine rules -/

/-- The reset state and every constructed machine meet the invariant: memory is in its canonical form, which is the model's
choice of representation (log entry 2), and a recorded fault names an ILLEGAL byte. -/
def Obligations.ResetAndConstructMeetTheInvariant : Prop :=
  State.reset.Inv ∧ ∀ image, (construct image).Inv

/-- Every step keeps the invariant, from every state that meets it: memory is in its canonical form, which is the model's
choice of representation (log entry 2), and a recorded fault names an ILLEGAL byte (R251). -/
def Obligations.StepKeepsTheInvariant : Prop :=
  ∀ s t : State, s.Inv → step s = .next t → t.Inv

/-- Every sequence of steps and host operations, in any interleaving, keeps the invariant: memory is in its canonical form,
which is the model's choice of representation (log entry 2), and a recorded fault names an ILLEGAL byte (R251). -/
def Obligations.EventsKeepTheInvariant : Prop :=
  ∀ (es : List Event) (s : State), s.Inv → (s.events es).Inv

/-- R61: memory after a step is memory before it with the writes of the step's bus accesses, in order, and nothing
else. That the accesses are listed by an account of their own, apart from the meanings and outside State, is the model's
choice (log entry 9). -/
def Obligations.MemoryChangesAreTheBusWrites : Prop :=
  (∀ (i : Instr) (s t : State), exec i s = .next t → t.mem = (dataAccesses i s).foldl Access.apply s.mem) ∧
  (∀ s t : State, step s = .next t → t.mem = (stepAccesses s).foldl Access.apply s.mem)

/-- The flag-writers table of 10_state.md: an instruction changes no flag outside its row, and the machine's inputs
not at all. -/
def Obligations.NoFlagOutsideTheWritersTableChanges : Prop :=
  ∀ (i : Instr) (s t : State), exec i s = .next t →
    (∀ f, f ∉ i.writesFlags → t.p.getFlag f = s.p.getFlag f) ∧ t.irqLine = s.irqLine ∧ t.nmiPending = s.nmiPending

/-- R21 to R25, R214: an instruction writes no register but those the rules give it. -/
def Obligations.NoRegisterOutsideItsWritersChanges : Prop :=
  ∀ (i : Instr) (s t : State), exec i s = .next t → ∀ r, r ∉ i.writesRegs → t.reg r = s.reg r

/-- R236: V is set only by ADC, SBC, BIT, PLP and RTI. -/
def Obligations.OverflowIsSetByFiveInstructionsOnly : Prop :=
  ∀ (i : Instr) (s t : State), exec i s = .next t → s.p.v = false → t.p.v = true →
    (∃ src, i = .adc src ∨ i = .sbc src ∨ i = .bit src) ∨ i = .plp ∨ i = .rti

/-- R25: a step that runs an instruction which is no control transfer leaves PC past its bytes, mod 2^16. -/
def Obligations.PcAdvancesByTheInstructionLength : Prop :=
  ∀ s : State, s.Ready → Reg.pc ∉ s.fetched.writesRegs →
    ∃ t, step s = .next t ∧ t.pc.toNat = (s.pc.toNat + s.fetched.length) % 65536

/-- R35, R36: the CORE never writes irq_line, and clears nmi_pending only by entering the NMI. -/
def Obligations.StepLeavesTheInterruptInputs : Prop :=
  ∀ s t : State, step s = .next t → t.irqLine = s.irqLine ∧ t.nmiPending = false ∧
    (s.nmiPending = true → Entered s t s.pc 0xFFFA false)
end

