-- ==== Sys2Proof/Laws/State.lean ====
section
/-! SUPPORT. What each update of the state leaves in each field, and what reading memory gives after it. No later proof
unfolds a record update. -/

namespace Sys2Proof.Machine

variable (s : State)

/-! ### setA -/

@[simp] theorem State.setA_a (v : Byte) : (s.setA v).a = v := rfl
@[simp] theorem State.setA_x (v : Byte) : (s.setA v).x = s.x := rfl
@[simp] theorem State.setA_y (v : Byte) : (s.setA v).y = s.y := rfl
@[simp] theorem State.setA_sp (v : Byte) : (s.setA v).sp = s.sp := rfl
@[simp] theorem State.setA_pc (v : Byte) : (s.setA v).pc = s.pc := rfl
@[simp] theorem State.setA_p (v : Byte) : (s.setA v).p = s.p := rfl
@[simp] theorem State.setA_mem (v : Byte) : (s.setA v).mem = s.mem := rfl
@[simp] theorem State.setA_nmiPending (v : Byte) : (s.setA v).nmiPending = s.nmiPending := rfl
@[simp] theorem State.setA_irqLine (v : Byte) : (s.setA v).irqLine = s.irqLine := rfl
@[simp] theorem State.setA_run (v : Byte) : (s.setA v).run = s.run := rfl
@[simp] theorem State.setA_read (v : Byte) (b : Addr) : (s.setA v).read b = s.read b := rfl

/-! ### setX -/

@[simp] theorem State.setX_a (v : Byte) : (s.setX v).a = s.a := rfl
@[simp] theorem State.setX_x (v : Byte) : (s.setX v).x = v := rfl
@[simp] theorem State.setX_y (v : Byte) : (s.setX v).y = s.y := rfl
@[simp] theorem State.setX_sp (v : Byte) : (s.setX v).sp = s.sp := rfl
@[simp] theorem State.setX_pc (v : Byte) : (s.setX v).pc = s.pc := rfl
@[simp] theorem State.setX_p (v : Byte) : (s.setX v).p = s.p := rfl
@[simp] theorem State.setX_mem (v : Byte) : (s.setX v).mem = s.mem := rfl
@[simp] theorem State.setX_nmiPending (v : Byte) : (s.setX v).nmiPending = s.nmiPending := rfl
@[simp] theorem State.setX_irqLine (v : Byte) : (s.setX v).irqLine = s.irqLine := rfl
@[simp] theorem State.setX_run (v : Byte) : (s.setX v).run = s.run := rfl
@[simp] theorem State.setX_read (v : Byte) (b : Addr) : (s.setX v).read b = s.read b := rfl

/-! ### setY -/

@[simp] theorem State.setY_a (v : Byte) : (s.setY v).a = s.a := rfl
@[simp] theorem State.setY_x (v : Byte) : (s.setY v).x = s.x := rfl
@[simp] theorem State.setY_y (v : Byte) : (s.setY v).y = v := rfl
@[simp] theorem State.setY_sp (v : Byte) : (s.setY v).sp = s.sp := rfl
@[simp] theorem State.setY_pc (v : Byte) : (s.setY v).pc = s.pc := rfl
@[simp] theorem State.setY_p (v : Byte) : (s.setY v).p = s.p := rfl
@[simp] theorem State.setY_mem (v : Byte) : (s.setY v).mem = s.mem := rfl
@[simp] theorem State.setY_nmiPending (v : Byte) : (s.setY v).nmiPending = s.nmiPending := rfl
@[simp] theorem State.setY_irqLine (v : Byte) : (s.setY v).irqLine = s.irqLine := rfl
@[simp] theorem State.setY_run (v : Byte) : (s.setY v).run = s.run := rfl
@[simp] theorem State.setY_read (v : Byte) (b : Addr) : (s.setY v).read b = s.read b := rfl

/-! ### setSp -/

@[simp] theorem State.setSp_a (v : Byte) : (s.setSp v).a = s.a := rfl
@[simp] theorem State.setSp_x (v : Byte) : (s.setSp v).x = s.x := rfl
@[simp] theorem State.setSp_y (v : Byte) : (s.setSp v).y = s.y := rfl
@[simp] theorem State.setSp_sp (v : Byte) : (s.setSp v).sp = v := rfl
@[simp] theorem State.setSp_pc (v : Byte) : (s.setSp v).pc = s.pc := rfl
@[simp] theorem State.setSp_p (v : Byte) : (s.setSp v).p = s.p := rfl
@[simp] theorem State.setSp_mem (v : Byte) : (s.setSp v).mem = s.mem := rfl
@[simp] theorem State.setSp_nmiPending (v : Byte) : (s.setSp v).nmiPending = s.nmiPending := rfl
@[simp] theorem State.setSp_irqLine (v : Byte) : (s.setSp v).irqLine = s.irqLine := rfl
@[simp] theorem State.setSp_run (v : Byte) : (s.setSp v).run = s.run := rfl
@[simp] theorem State.setSp_read (v : Byte) (b : Addr) : (s.setSp v).read b = s.read b := rfl

/-! ### setPc -/

@[simp] theorem State.setPc_a (v : Addr) : (s.setPc v).a = s.a := rfl
@[simp] theorem State.setPc_x (v : Addr) : (s.setPc v).x = s.x := rfl
@[simp] theorem State.setPc_y (v : Addr) : (s.setPc v).y = s.y := rfl
@[simp] theorem State.setPc_sp (v : Addr) : (s.setPc v).sp = s.sp := rfl
@[simp] theorem State.setPc_pc (v : Addr) : (s.setPc v).pc = v := rfl
@[simp] theorem State.setPc_p (v : Addr) : (s.setPc v).p = s.p := rfl
@[simp] theorem State.setPc_mem (v : Addr) : (s.setPc v).mem = s.mem := rfl
@[simp] theorem State.setPc_nmiPending (v : Addr) : (s.setPc v).nmiPending = s.nmiPending := rfl
@[simp] theorem State.setPc_irqLine (v : Addr) : (s.setPc v).irqLine = s.irqLine := rfl
@[simp] theorem State.setPc_run (v : Addr) : (s.setPc v).run = s.run := rfl
@[simp] theorem State.setPc_read (v : Addr) (b : Addr) : (s.setPc v).read b = s.read b := rfl

/-! ### setP -/

@[simp] theorem State.setP_a (v : Flags) : (s.setP v).a = s.a := rfl
@[simp] theorem State.setP_x (v : Flags) : (s.setP v).x = s.x := rfl
@[simp] theorem State.setP_y (v : Flags) : (s.setP v).y = s.y := rfl
@[simp] theorem State.setP_sp (v : Flags) : (s.setP v).sp = s.sp := rfl
@[simp] theorem State.setP_pc (v : Flags) : (s.setP v).pc = s.pc := rfl
@[simp] theorem State.setP_p (v : Flags) : (s.setP v).p = v := rfl
@[simp] theorem State.setP_mem (v : Flags) : (s.setP v).mem = s.mem := rfl
@[simp] theorem State.setP_nmiPending (v : Flags) : (s.setP v).nmiPending = s.nmiPending := rfl
@[simp] theorem State.setP_irqLine (v : Flags) : (s.setP v).irqLine = s.irqLine := rfl
@[simp] theorem State.setP_run (v : Flags) : (s.setP v).run = s.run := rfl
@[simp] theorem State.setP_read (v : Flags) (b : Addr) : (s.setP v).read b = s.read b := rfl

/-! ### setRun -/

@[simp] theorem State.setRun_a (v : RunState) : (s.setRun v).a = s.a := rfl
@[simp] theorem State.setRun_x (v : RunState) : (s.setRun v).x = s.x := rfl
@[simp] theorem State.setRun_y (v : RunState) : (s.setRun v).y = s.y := rfl
@[simp] theorem State.setRun_sp (v : RunState) : (s.setRun v).sp = s.sp := rfl
@[simp] theorem State.setRun_pc (v : RunState) : (s.setRun v).pc = s.pc := rfl
@[simp] theorem State.setRun_p (v : RunState) : (s.setRun v).p = s.p := rfl
@[simp] theorem State.setRun_mem (v : RunState) : (s.setRun v).mem = s.mem := rfl
@[simp] theorem State.setRun_nmiPending (v : RunState) : (s.setRun v).nmiPending = s.nmiPending := rfl
@[simp] theorem State.setRun_irqLine (v : RunState) : (s.setRun v).irqLine = s.irqLine := rfl
@[simp] theorem State.setRun_run (v : RunState) : (s.setRun v).run = v := rfl
@[simp] theorem State.setRun_read (v : RunState) (b : Addr) : (s.setRun v).read b = s.read b := rfl

/-! ### setNmi -/

@[simp] theorem State.setNmi_a (v : Bool) : (s.setNmi v).a = s.a := rfl
@[simp] theorem State.setNmi_x (v : Bool) : (s.setNmi v).x = s.x := rfl
@[simp] theorem State.setNmi_y (v : Bool) : (s.setNmi v).y = s.y := rfl
@[simp] theorem State.setNmi_sp (v : Bool) : (s.setNmi v).sp = s.sp := rfl
@[simp] theorem State.setNmi_pc (v : Bool) : (s.setNmi v).pc = s.pc := rfl
@[simp] theorem State.setNmi_p (v : Bool) : (s.setNmi v).p = s.p := rfl
@[simp] theorem State.setNmi_mem (v : Bool) : (s.setNmi v).mem = s.mem := rfl
@[simp] theorem State.setNmi_nmiPending (v : Bool) : (s.setNmi v).nmiPending = v := rfl
@[simp] theorem State.setNmi_irqLine (v : Bool) : (s.setNmi v).irqLine = s.irqLine := rfl
@[simp] theorem State.setNmi_run (v : Bool) : (s.setNmi v).run = s.run := rfl
@[simp] theorem State.setNmi_read (v : Bool) (b : Addr) : (s.setNmi v).read b = s.read b := rfl

/-! ### setIrq -/

@[simp] theorem State.setIrq_a (v : Bool) : (s.setIrq v).a = s.a := rfl
@[simp] theorem State.setIrq_x (v : Bool) : (s.setIrq v).x = s.x := rfl
@[simp] theorem State.setIrq_y (v : Bool) : (s.setIrq v).y = s.y := rfl
@[simp] theorem State.setIrq_sp (v : Bool) : (s.setIrq v).sp = s.sp := rfl
@[simp] theorem State.setIrq_pc (v : Bool) : (s.setIrq v).pc = s.pc := rfl
@[simp] theorem State.setIrq_p (v : Bool) : (s.setIrq v).p = s.p := rfl
@[simp] theorem State.setIrq_mem (v : Bool) : (s.setIrq v).mem = s.mem := rfl
@[simp] theorem State.setIrq_nmiPending (v : Bool) : (s.setIrq v).nmiPending = s.nmiPending := rfl
@[simp] theorem State.setIrq_irqLine (v : Bool) : (s.setIrq v).irqLine = v := rfl
@[simp] theorem State.setIrq_run (v : Bool) : (s.setIrq v).run = s.run := rfl
@[simp] theorem State.setIrq_read (v : Bool) (b : Addr) : (s.setIrq v).read b = s.read b := rfl

/-! ### write -/

@[simp] theorem State.write_a (c : Addr) (v : Byte) : (s.write c v).a = s.a := rfl
@[simp] theorem State.write_x (c : Addr) (v : Byte) : (s.write c v).x = s.x := rfl
@[simp] theorem State.write_y (c : Addr) (v : Byte) : (s.write c v).y = s.y := rfl
@[simp] theorem State.write_sp (c : Addr) (v : Byte) : (s.write c v).sp = s.sp := rfl
@[simp] theorem State.write_pc (c : Addr) (v : Byte) : (s.write c v).pc = s.pc := rfl
@[simp] theorem State.write_p (c : Addr) (v : Byte) : (s.write c v).p = s.p := rfl
@[simp] theorem State.write_mem (c : Addr) (v : Byte) : (s.write c v).mem = s.mem.write c.toNat v := rfl
@[simp] theorem State.write_nmiPending (c : Addr) (v : Byte) : (s.write c v).nmiPending = s.nmiPending := rfl
@[simp] theorem State.write_irqLine (c : Addr) (v : Byte) : (s.write c v).irqLine = s.irqLine := rfl
@[simp] theorem State.write_run (c : Addr) (v : Byte) : (s.write c v).run = s.run := rfl

/-! ### push -/

@[simp] theorem State.push_a (v : Byte) : (s.push v).a = s.a := rfl
@[simp] theorem State.push_x (v : Byte) : (s.push v).x = s.x := rfl
@[simp] theorem State.push_y (v : Byte) : (s.push v).y = s.y := rfl
@[simp] theorem State.push_sp (v : Byte) : (s.push v).sp = s.sp - 1 := rfl
@[simp] theorem State.push_pc (v : Byte) : (s.push v).pc = s.pc := rfl
@[simp] theorem State.push_p (v : Byte) : (s.push v).p = s.p := rfl
@[simp] theorem State.push_mem (v : Byte) : (s.push v).mem = s.mem.write (stackAddr s.sp).toNat v := rfl
@[simp] theorem State.push_nmiPending (v : Byte) : (s.push v).nmiPending = s.nmiPending := rfl
@[simp] theorem State.push_irqLine (v : Byte) : (s.push v).irqLine = s.irqLine := rfl
@[simp] theorem State.push_run (v : Byte) : (s.push v).run = s.run := rfl

/-! ### afterPull -/

@[simp] theorem State.afterPull_a : (s.afterPull).a = s.a := rfl
@[simp] theorem State.afterPull_x : (s.afterPull).x = s.x := rfl
@[simp] theorem State.afterPull_y : (s.afterPull).y = s.y := rfl
@[simp] theorem State.afterPull_sp : (s.afterPull).sp = s.sp + 1 := rfl
@[simp] theorem State.afterPull_pc : (s.afterPull).pc = s.pc := rfl
@[simp] theorem State.afterPull_p : (s.afterPull).p = s.p := rfl
@[simp] theorem State.afterPull_mem : (s.afterPull).mem = s.mem := rfl
@[simp] theorem State.afterPull_nmiPending : (s.afterPull).nmiPending = s.nmiPending := rfl
@[simp] theorem State.afterPull_irqLine : (s.afterPull).irqLine = s.irqLine := rfl
@[simp] theorem State.afterPull_run : (s.afterPull).run = s.run := rfl
@[simp] theorem State.afterPull_read (b : Addr) : (s.afterPull).read b = s.read b := rfl

/-! ### pastInstr -/

@[simp] theorem State.pastInstr_a (i : Instr) : (s.pastInstr i).a = s.a := rfl
@[simp] theorem State.pastInstr_x (i : Instr) : (s.pastInstr i).x = s.x := rfl
@[simp] theorem State.pastInstr_y (i : Instr) : (s.pastInstr i).y = s.y := rfl
@[simp] theorem State.pastInstr_sp (i : Instr) : (s.pastInstr i).sp = s.sp := rfl
@[simp] theorem State.pastInstr_pc (i : Instr) : (s.pastInstr i).pc = s.pc + BitVec.ofNat 16 i.length := rfl
@[simp] theorem State.pastInstr_p (i : Instr) : (s.pastInstr i).p = s.p := rfl
@[simp] theorem State.pastInstr_mem (i : Instr) : (s.pastInstr i).mem = s.mem := rfl
@[simp] theorem State.pastInstr_nmiPending (i : Instr) : (s.pastInstr i).nmiPending = s.nmiPending := rfl
@[simp] theorem State.pastInstr_irqLine (i : Instr) : (s.pastInstr i).irqLine = s.irqLine := rfl
@[simp] theorem State.pastInstr_run (i : Instr) : (s.pastInstr i).run = s.run := rfl
@[simp] theorem State.pastInstr_read (i : Instr) (b : Addr) : (s.pastInstr i).read b = s.read b := rfl

end Sys2Proof.Machine
end

