-- ==== Sys2Proof/Laws/Memory.lean ====
section
/-! SUPPORT. The laws of memory: a byte written reads back, every other byte reads as before, every operation keeps the
canonical form, and two canonical memories that read alike are equal. -/

namespace Sys2Proof.Machine

/-! ## Reading -/

@[simp] theorem Memory.read_nil (a : Nat) : Memory.read [] a = Config.unlistedByte := rfl

theorem Memory.read_cons (k : Nat) (v : Byte) (m : Memory) (a : Nat) :
    Memory.read ((k, v) :: m) a = if k = a then v else Memory.read m a := rfl

theorem Memory.erase_cons (k : Nat) (v : Byte) (m : Memory) (a : Nat) :
    Memory.erase ((k, v) :: m) a = if k = a then Memory.erase m a else (k, v) :: Memory.erase m a := by
  by_cases h : k = a <;> simp [Memory.erase, h]

theorem Memory.read_erase (m : Memory) (a b : Nat) :
    (m.erase a).read b = if b = a then Config.unlistedByte else m.read b := by
  induction m with
  | nil => simp [Memory.erase]
  | cons c m ih =>
    obtain ⟨k, v⟩ := c
    rw [Memory.erase_cons, Memory.read_cons]
    by_cases hk : k = a
    · subst hk
      by_cases hb : b = k
      · subst hb; simpa using ih
      · simp [ih, hb, Ne.symm hb]
    · rw [if_neg hk, Memory.read_cons, ih]
      by_cases hb : k = b
      · simp [hb ▸ hk, hb]
      · simp [hb]

theorem Memory.read_insert (m : Memory) (a b : Nat) (v : Byte) (h : m.read a = Config.unlistedByte)
    (hm : m.erase a = m) : (m.insert a v).read b = if b = a then v else m.read b := by
  induction m with
  | nil => simp [Memory.insert, Memory.read_cons, eq_comm]
  | cons c m ih =>
    obtain ⟨k, w⟩ := c
    have hka : k ≠ a := by
      rintro rfl
      have h1 : (Memory.erase ((k, w) :: m) k).length = m.length + 1 := by rw [hm]; rfl
      rw [Memory.erase_cons, if_pos rfl] at h1
      have h2 : (Memory.erase m k).length ≤ m.length := List.length_filter_le _ _
      omega
    rw [Memory.erase_cons, if_neg hka, List.cons.injEq] at hm
    rw [Memory.read_cons, if_neg hka] at h
    unfold Memory.insert
    by_cases hlt : a < k
    · rw [if_pos hlt, Memory.read_cons]; by_cases hb : a = b
      · simp [hb]
      · simp [hb, Ne.symm hb]
    · rw [if_neg hlt, Memory.read_cons, Memory.read_cons, ih h hm.2]
      by_cases hb : k = b
      · simp [hb, hb ▸ hka]
      · simp [hb]

theorem Memory.erase_erase (m : Memory) (a : Nat) : (m.erase a).erase a = m.erase a := by
  simp [Memory.erase, List.filter_filter]

/-- R52: what a write does to every byte of memory. -/
theorem Memory.read_write (m : Memory) (a b : Nat) (v : Byte) :
    (m.write a v).read b = if b = a then v else m.read b := by
  unfold Memory.write
  by_cases hv : v = Config.unlistedByte
  · rw [if_pos hv, Memory.read_erase, hv]
  · rw [if_neg hv, Memory.read_insert _ _ _ _ (by simp [Memory.read_erase]) (Memory.erase_erase m a),
      Memory.read_erase]
    by_cases hb : b = a <;> simp [hb]

/-- R52 on the state: a store writes one byte and no other. -/
theorem State.read_write (s : State) (a b : Addr) (v : Byte) :
    (s.write a v).read b = if b = a then v else s.read b := by
  simp [State.read, Memory.read_write, BitVec.toNat_inj]

@[simp] theorem State.read_write_self (s : State) (a : Addr) (v : Byte) : (s.write a v).read a = v := by
  simp [State.read_write]

theorem State.read_write_of_ne (s : State) {a b : Addr} (v : Byte) (h : b ≠ a) :
    (s.write a v).read b = s.read b := by
  simp [State.read_write, h]

/-! ## The canonical form -/

theorem Memory.wfFrom_cons (lo k : Nat) (v : Byte) (m : Memory) :
    Memory.wfFrom lo ((k, v) :: m) = true ↔
      lo ≤ k ∧ k < Config.memSize ∧ v ≠ Config.unlistedByte ∧ Memory.wfFrom (k + 1) m = true := by
  simp [Memory.wfFrom, and_assoc]

theorem Memory.wfFrom_weaken {lo lo' : Nat} {m : Memory} (h : Memory.wfFrom lo m = true) (hl : lo' ≤ lo) :
    Memory.wfFrom lo' m = true := by
  cases m with
  | nil => rfl
  | cons c m =>
    obtain ⟨k, v⟩ := c
    rw [Memory.wfFrom_cons] at h ⊢
    exact ⟨by omega, h.2⟩

theorem Memory.wfFrom_erase {lo : Nat} {m : Memory} (h : Memory.wfFrom lo m = true) (a : Nat) :
    Memory.wfFrom lo (m.erase a) = true := by
  induction m generalizing lo with
  | nil => rfl
  | cons c m ih =>
    obtain ⟨k, v⟩ := c
    rw [Memory.wfFrom_cons] at h
    rw [Memory.erase_cons]
    split
    · exact Memory.wfFrom_weaken (ih h.2.2.2) (by omega)
    · rw [Memory.wfFrom_cons]; exact ⟨h.1, h.2.1, h.2.2.1, ih h.2.2.2⟩

theorem Memory.wfFrom_insert {lo : Nat} {m : Memory} (h : Memory.wfFrom lo m = true) {a : Nat} {v : Byte}
    (hlo : lo ≤ a) (ha : a < Config.memSize) (hv : v ≠ Config.unlistedByte) (hm : m.erase a = m) :
    Memory.wfFrom lo (m.insert a v) = true := by
  induction m generalizing lo with
  | nil => simp [Memory.insert, hlo, ha, hv, Memory.wfFrom]
  | cons c m ih =>
    obtain ⟨k, w⟩ := c
    have hka : k ≠ a := by
      rintro rfl
      have h1 : (Memory.erase ((k, w) :: m) k).length = m.length + 1 := by rw [hm]; rfl
      rw [Memory.erase_cons, if_pos rfl] at h1
      have h2 : (Memory.erase m k).length ≤ m.length := List.length_filter_le _ _
      omega
    rw [Memory.erase_cons, if_neg hka, List.cons.injEq] at hm
    rw [Memory.wfFrom_cons] at h
    unfold Memory.insert
    split
    · rw [Memory.wfFrom_cons, Memory.wfFrom_cons]
      exact ⟨hlo, ha, hv, by omega, h.2⟩
    · rw [Memory.wfFrom_cons]
      exact ⟨h.1, h.2.1, h.2.2.1, ih h.2.2.2 (by omega) hm.2⟩

/-- Every write inside the address space keeps the canonical form. -/
theorem Memory.wf_write {m : Memory} (h : m.wf = true) {a : Nat} (ha : a < Config.memSize) (v : Byte) :
    (m.write a v).wf = true := by
  unfold Memory.write
  split
  · exact Memory.wfFrom_erase h a
  · rename_i hv
    exact Memory.wfFrom_insert (Memory.wfFrom_erase h a) (Nat.zero_le a) ha hv (Memory.erase_erase m a)

theorem Addr.toNat_lt_memSize (a : Addr) : a.toNat < Config.memSize := a.isLt

/-- A 16-bit address is always inside the address space. -/
theorem Memory.wf_write_addr {m : Memory} (h : m.wf = true) (a : Addr) (v : Byte) : (m.write a.toNat v).wf = true :=
  Memory.wf_write h (Addr.toNat_lt_memSize a) v

theorem Memory.wf_foldl_write (image : List (Addr × Byte)) {m : Memory} (h : m.wf = true) :
    (image.foldl (fun m c => m.write c.1.toNat c.2) m).wf = true := by
  induction image generalizing m with
  | nil => exact h
  | cons c image ih => exact ih (Memory.wf_write_addr h c.1 c.2)

/-- A host's image is loaded in canonical form. -/
theorem Memory.wf_ofImage (image : List (Addr × Byte)) : (Memory.ofImage image).wf = true :=
  Memory.wf_foldl_write image rfl

/-- Below its first address a canonical memory lists nothing. -/
theorem Memory.read_below {lo : Nat} {m : Memory} (h : Memory.wfFrom lo m = true) {a : Nat} (ha : a < lo) :
    m.read a = Config.unlistedByte := by
  induction m generalizing lo with
  | nil => rfl
  | cons c m ih =>
    obtain ⟨k, v⟩ := c
    rw [Memory.wfFrom_cons] at h
    rw [Memory.read_cons, if_neg (by omega)]
    exact ih h.2.2.2 (by omega)

end Sys2Proof.Machine
end

