-- ==== Sys2Proof/Laws/Ops.lean ====
section
/-! SUPPORT. What the shared operations do, once: bytes and addresses, the stack, interrupt entry and return, the
read-modify-write operation. -/

namespace Sys2Proof

/-! ## Bytes and addresses -/

theorem joinBytes_toNat (hi lo : Byte) : (joinBytes hi lo).toNat = 256 * hi.toNat + lo.toNat := by
  have := hi.isLt; have := lo.isLt
  simp only [joinBytes, BitVec.toNat_ofNat]; omega

@[simp] theorem joinBytes_hiByte_loByte (v : Addr) : joinBytes (hiByte v) (loByte v) = v := by
  apply BitVec.eq_of_toNat_eq
  have := v.isLt
  simp only [joinBytes_toNat, hiByte, loByte, BitVec.toNat_ofNat]; omega

@[simp] theorem hiByte_joinBytes (hi lo : Byte) : hiByte (joinBytes hi lo) = hi := by
  apply BitVec.eq_of_toNat_eq
  have := hi.isLt; have := lo.isLt
  simp only [hiByte, joinBytes_toNat, BitVec.toNat_ofNat]; omega

@[simp] theorem loByte_joinBytes (hi lo : Byte) : loByte (joinBytes hi lo) = lo := by
  apply BitVec.eq_of_toNat_eq
  have := hi.isLt; have := lo.isLt
  simp only [loByte, joinBytes_toNat, BitVec.toNat_ofNat]; omega

theorem zext16_toNat (b : Byte) : (zext16 b).toNat = b.toNat := by
  have := b.isLt
  simp only [zext16, BitVec.toNat_setWidth]; omega

theorem msb_iff (b : Byte) : b.msb = true ↔ 128 ≤ b.toNat := by
  simp [BitVec.msb_eq_decide]

namespace Machine

/-! ## The stack -/

/-- R24, R200: the stack byte of SP is in page 1. -/
theorem stackAddr_toNat (sp : Byte) : (stackAddr sp).toNat = 256 + sp.toNat := by
  have h : stackAddr sp = Config.stackPage + zext16 sp := by
    rw [stackAddr, ← BitVec.add_eq_or_of_and_eq_zero]
    apply BitVec.eq_of_getLsbD_eq
    intro i hi
    have h8 : ∀ j : Fin 16, Config.stackPage.getLsbD j = decide (j.val = 8) := by decide
    by_cases hj : i = 8
    · subst hj; simp [zext16]
    · simp [zext16, h8 ⟨i, hi⟩, hj]
  have := sp.isLt
  rw [h, BitVec.toNat_add, zext16_toNat]
  have : Config.stackPage.toNat = 256 := rfl
  omega

theorem stackAddr_inj {a b : Byte} : stackAddr a = stackAddr b ↔ a = b := by
  constructor
  · intro h
    have := congrArg BitVec.toNat h
    rw [stackAddr_toNat, stackAddr_toNat] at this
    exact BitVec.eq_of_toNat_eq (by omega)
  · rintro rfl; rfl

/-- A push stores at the stack byte of SP and nowhere else. -/
theorem State.push_read (s : State) (v : Byte) (b : Addr) :
    (s.push v).read b = if b = stackAddr s.sp then v else s.read b := by
  simp [State.push, State.read_write]

theorem State.pulled_eq (s : State) : s.pulled = s.read (stackAddr (s.sp + 1)) := rfl

/-! ## Interrupt entry and return -/

/-- R263: the fields after interrupt entry. -/
theorem State.enter_sp (s : State) (ret vec : Addr) (b : Bool) : (s.enter ret vec b).sp = s.sp - 1 - 1 - 1 := by simp [State.enter]

@[simp] theorem State.enter_a (s : State) (ret vec : Addr) (b : Bool) : (s.enter ret vec b).a = s.a := by simp [State.enter]
@[simp] theorem State.enter_x (s : State) (ret vec : Addr) (b : Bool) : (s.enter ret vec b).x = s.x := by simp [State.enter]
@[simp] theorem State.enter_y (s : State) (ret vec : Addr) (b : Bool) : (s.enter ret vec b).y = s.y := by simp [State.enter]
@[simp] theorem State.enter_p (s : State) (ret vec : Addr) (b : Bool) :
    (s.enter ret vec b).p = { s.p with i := true } := by simp [State.enter]
@[simp] theorem State.enter_nmiPending (s : State) (ret vec : Addr) (b : Bool) :
    (s.enter ret vec b).nmiPending = s.nmiPending := by simp [State.enter]
@[simp] theorem State.enter_irqLine (s : State) (ret vec : Addr) (b : Bool) :
    (s.enter ret vec b).irqLine = s.irqLine := by simp [State.enter]
@[simp] theorem State.enter_run (s : State) (ret vec : Addr) (b : Bool) : (s.enter ret vec b).run = s.run := by simp [State.enter]

/-- R263: every byte of memory after interrupt entry; the last push is looked at first. -/
theorem State.enter_read (s : State) (ret vec : Addr) (b : Bool) (a : Addr) :
    (s.enter ret vec b).read a =
      if a = stackAddr (s.sp - 1 - 1) then pushedStatus s.p b
      else if a = stackAddr (s.sp - 1) then loByte ret
      else if a = stackAddr s.sp then hiByte ret
      else s.read a := by
  simp only [State.enter, State.setPc_read, State.setP_read, State.push_read, State.push_sp]

/-- R263: PC is the vector's pair, read after the pushes. -/
theorem State.enter_pc (s : State) (ret vec : Addr) (b : Bool) :
    (s.enter ret vec b).pc = joinBytes ((s.enter ret vec b).read (vec + 1)) ((s.enter ret vec b).read vec) := by
  simp [State.enter, State.readPair]

/-- R244: the fields after RTI. -/
theorem State.rti_sp (s : State) : s.returnFromInterrupt.sp = s.sp + 1 + 1 + 1 := by
  simp [State.returnFromInterrupt]

theorem State.rti_p (s : State) : s.returnFromInterrupt.p = restoreStatus (s.read (stackAddr (s.sp + 1))) := by
  simp [State.returnFromInterrupt, State.pulled_eq]

theorem State.rti_pc (s : State) : s.returnFromInterrupt.pc =
    joinBytes (s.read (stackAddr (s.sp + 1 + 1 + 1))) (s.read (stackAddr (s.sp + 1 + 1))) := by
  simp [State.returnFromInterrupt, State.pulled_eq]

@[simp] theorem State.rti_mem (s : State) : s.returnFromInterrupt.mem = s.mem := by
  simp [State.returnFromInterrupt]

/-! ## Read-modify-write -/

/-- R117: what an instruction on a byte of memory does to every byte. -/
theorem modifyMemory_read (m : MemOperand) (f : Flags → Byte → Byte × Flags) (s : State) (b : Addr) :
    (modifyMemory m f s).read b = if b = resolve m s then (f s.p (s.read (resolve m s))).1 else s.read b := by
  simp [modifyMemory, State.read_write]

@[simp] theorem modifyMemory_p (m : MemOperand) (f : Flags → Byte → Byte × Flags) (s : State) :
    (modifyMemory m f s).p = (f s.p (s.read (resolve m s))).2 := rfl

/-- R116: what a store does to every byte. -/
theorem store_read (m : MemOperand) (v : Byte) (s : State) (b : Addr) :
    (store m v s).read b = if b = resolve m s then v else s.read b := by
  simp [store, State.read_write]

/-- R180: a branch moves PC, or nothing. -/
theorem branchIf_eq (cond : Bool) (d : Byte) (s : State) :
    branchIf cond d s = s.setPc (if cond then s.pc + sext16 d else s.pc) := by
  cases cond <;> rfl

end Machine

end Sys2Proof
end

