-- ==== Sys2Proof/Laws/Decode.lean ====
section
/-! SUPPORT. What the decoder reads from each form, and what every entry of the opcode matrix is: the form's instruction is
well-formed, encodes back to its byte, and has the operand bytes of its form. -/

namespace Sys2Proof

@[simp] theorem decode_cons (op : Byte) (tail : List Byte) : decode (op :: tail) = (opForm op).decodeTail op tail := rfl

@[simp] theorem decodeTail_illegal (op : Byte) (tail : List Byte) :
    OpForm.illegal.decodeTail op tail = .ok (.illegal op, tail) := rfl

@[simp] theorem decodeTail_bare (i : Instr) (op : Byte) (tail : List Byte) :
    (OpForm.bare i).decodeTail op tail = .ok (i, tail) := rfl

@[simp] theorem decodeTail_byte (k : Byte → Instr) (op b1 : Byte) (rest : List Byte) :
    (OpForm.byte k).decodeTail op (b1 :: rest) = .ok (k b1, rest) := rfl

@[simp] theorem decodeTail_word (k : Addr → Instr) (op b1 b2 : Byte) (rest : List Byte) :
    (OpForm.word k).decodeTail op (b1 :: b2 :: rest) = .ok (k (joinBytes b2 b1), rest) := rfl

/-- With two bytes after the opcode byte the decoder always reads an instruction. -/
theorem decode_build (op b1 b2 : Byte) (rest : List Byte) :
    decode (op :: b1 :: b2 :: rest) =
      .ok ((opForm op).build op b1 b2, (b1 :: b2 :: rest).drop (opForm op).operandBytes) := by
  rw [decode_cons]
  cases opForm op <;> rfl

/-- What an entry of the matrix says of its opcode byte and of the instruction it gives. -/
def OpForm.Sound (op : Byte) : OpForm → Prop
  | .illegal => op ∈ illegalBytes
  | .bare i  => op ∉ illegalBytes ∧ i.wellFormed = true ∧ i.opcode = some op ∧ i.operandBytes = [] ∧
      ∀ o, i ≠ .illegal o
  | .byte k  => op ∉ illegalBytes ∧ ∀ b, (k b).wellFormed = true ∧ (k b).opcode = some op ∧
      (k b).operandBytes = [b] ∧ ∀ o, k b ≠ .illegal o
  | .word k  => op ∉ illegalBytes ∧ ∀ a, (k a).wellFormed = true ∧ (k a).opcode = some op ∧
      (k a).operandBytes = [loByte a, hiByte a] ∧ ∀ o, k a ≠ .illegal o

theorem opForm_sound_at (hi lo : Fin 16) :
    (opForm (BitVec.ofNat 8 (hi * 16 + lo))).Sound (BitVec.ofNat 8 (hi * 16 + lo)) := by
  fin_cases hi <;> fin_cases lo <;>
  first
  | exact ⟨by decide, rfl, rfl, rfl, by intro o; exact Instr.noConfusion⟩
  | exact ⟨by decide, fun b => ⟨rfl, rfl, rfl, by intro o; exact Instr.noConfusion⟩⟩
  | (show _ ∈ illegalBytes; decide)

/-- R83 to R86: every entry of the matrix is sound. -/
theorem opForm_sound (op : Byte) : (opForm op).Sound op := by
  have hlt := op.isLt
  have h : BitVec.ofNat 8 (op.toNat / 16 * 16 + op.toNat % 16) = op := by
    apply BitVec.eq_of_toNat_eq; simp; omega
  have := opForm_sound_at ⟨op.toNat / 16, by omega⟩ ⟨op.toNat % 16, by omega⟩
  simp only [h] at this
  exact this

/-- What the instruction of three bytes is, whichever byte comes first. -/
theorem build_sound (op b1 b2 : Byte) :
    ((opForm op).build op b1 b2).wellFormed = true ∧ ((opForm op).build op b1 b2).opcode = some op ∧
    ((opForm op).build op b1 b2).operandBytes = [b1, b2].take (opForm op).operandBytes ∧
    (op ∉ illegalBytes → ∀ o, (opForm op).build op b1 b2 ≠ .illegal o) ∧
    (op ∈ illegalBytes → opForm op = .illegal) := by
  have h := opForm_sound op
  revert h
  cases opForm op with
  | illegal =>
    intro (h : op ∈ illegalBytes)
    exact ⟨by simpa [OpForm.build, Instr.wellFormed] using h, by simp [OpForm.build, Instr.opcode, h], rfl,
      fun h' => absurd h h', fun _ => rfl⟩
  | bare i =>
    rintro ⟨h0, h1, h2, h3, h4⟩
    exact ⟨h1, h2, h3, fun _ => h4, fun h => absurd h h0⟩
  | byte k =>
    rintro ⟨h0, h⟩
    obtain ⟨h1, h2, h3, h4⟩ := h b1
    exact ⟨h1, h2, h3, fun _ => h4, fun h => absurd h h0⟩
  | word k =>
    rintro ⟨h0, h⟩
    obtain ⟨h1, h2, h3, h4⟩ := h (joinBytes b2 b1)
    exact ⟨h1, h2, by simpa [OpForm.operandBytes, OpForm.build] using h3, fun _ => h4, fun h => absurd h h0⟩

theorem build_length (op b1 b2 : Byte) : ((opForm op).build op b1 b2).length = opLength op := by
  unfold Instr.length opLength
  rw [(build_sound op b1 b2).2.2.1]
  cases opForm op <;> rfl

end Sys2Proof
end

