-- ==== Sys2Proof/Laws/Exec.lean ====
section
/-! SUPPORT. One equation for each instruction: the next state its meaning answers, over the shared operations. Later
proofs cite these and never unfold a meaning. -/

namespace Sys2Proof.Machine

variable (s : State)

theorem exec_lda (src : Source) :
    exec (.lda src) s = .next ((s.setA (sourceValue src s)).setP (s.p.setNZ (sourceValue src s))) := rfl
theorem exec_ldx (src : Source) :
    exec (.ldx src) s = .next ((s.setX (sourceValue src s)).setP (s.p.setNZ (sourceValue src s))) := rfl
theorem exec_ldy (src : Source) :
    exec (.ldy src) s = .next ((s.setY (sourceValue src s)).setP (s.p.setNZ (sourceValue src s))) := rfl
theorem exec_sta (dst : MemOperand) :
    exec (.sta dst) s = .next (s.write (resolve dst s) s.a) := rfl
theorem exec_stx (dst : MemOperand) :
    exec (.stx dst) s = .next (s.write (resolve dst s) s.x) := rfl
theorem exec_sty (dst : MemOperand) :
    exec (.sty dst) s = .next (s.write (resolve dst s) s.y) := rfl
theorem exec_adc (src : Source) :
    exec (.adc src) s = .next ((s.setA (addFlags s.p s.a (sourceValue src s)).1).setP (addFlags s.p s.a (sourceValue src s)).2) := rfl
theorem exec_sbc (src : Source) :
    exec (.sbc src) s = .next ((s.setA (subFlags s.p s.a (sourceValue src s)).1).setP (subFlags s.p s.a (sourceValue src s)).2) := rfl
theorem exec_and (src : Source) :
    exec (.and src) s = .next ((s.setA (s.a &&& sourceValue src s)).setP (s.p.setNZ (s.a &&& sourceValue src s))) := rfl
theorem exec_ora (src : Source) :
    exec (.ora src) s = .next ((s.setA (s.a ||| sourceValue src s)).setP (s.p.setNZ (s.a ||| sourceValue src s))) := rfl
theorem exec_eor (src : Source) :
    exec (.eor src) s = .next ((s.setA (s.a ^^^ sourceValue src s)).setP (s.p.setNZ (s.a ^^^ sourceValue src s))) := rfl
theorem exec_bit (src : Source) :
    exec (.bit src) s = .next (s.setP (bitFlags s.p s.a (sourceValue src s))) := rfl
theorem exec_asl (tgt : Target) :
    exec (.asl tgt) s = .next (modify tgt aslFlags s) := rfl
theorem exec_lsr (tgt : Target) :
    exec (.lsr tgt) s = .next (modify tgt lsrFlags s) := rfl
theorem exec_rol (tgt : Target) :
    exec (.rol tgt) s = .next (modify tgt rolFlags s) := rfl
theorem exec_ror (tgt : Target) :
    exec (.ror tgt) s = .next (modify tgt rorFlags s) := rfl
theorem exec_cmp (src : Source) :
    exec (.cmp src) s = .next (s.setP (compareFlags s.p s.a (sourceValue src s))) := rfl
theorem exec_cpx (src : Source) :
    exec (.cpx src) s = .next (s.setP (compareFlags s.p s.x (sourceValue src s))) := rfl
theorem exec_cpy (src : Source) :
    exec (.cpy src) s = .next (s.setP (compareFlags s.p s.y (sourceValue src s))) := rfl
theorem exec_bcc (d : Byte) :
    exec (.bcc d) s = .next (branchIf (!s.p.c) d s) := rfl
theorem exec_bcs (d : Byte) :
    exec (.bcs d) s = .next (branchIf (s.p.c) d s) := rfl
theorem exec_beq (d : Byte) :
    exec (.beq d) s = .next (branchIf (s.p.z) d s) := rfl
theorem exec_bne (d : Byte) :
    exec (.bne d) s = .next (branchIf (!s.p.z) d s) := rfl
theorem exec_bmi (d : Byte) :
    exec (.bmi d) s = .next (branchIf (s.p.n) d s) := rfl
theorem exec_bpl (d : Byte) :
    exec (.bpl d) s = .next (branchIf (!s.p.n) d s) := rfl
theorem exec_bvc (d : Byte) :
    exec (.bvc d) s = .next (branchIf (!s.p.v) d s) := rfl
theorem exec_bvs (d : Byte) :
    exec (.bvs d) s = .next (branchIf (s.p.v) d s) := rfl
theorem exec_pha :
    exec .pha s = .next (s.push s.a) := rfl
theorem exec_pla :
    exec .pla s = .next ((s.afterPull.setA s.pulled).setP (s.p.setNZ s.pulled)) := rfl
theorem exec_plp :
    exec .plp s = .next (s.afterPull.setP (restoreStatus s.pulled)) := rfl
theorem exec_php :
    exec .php s = .next (s.push (pushedStatus s.p true)) := rfl
theorem exec_tax :
    exec .tax s = .next ((s.setX s.a).setP (s.p.setNZ s.a)) := rfl
theorem exec_tay :
    exec .tay s = .next ((s.setY s.a).setP (s.p.setNZ s.a)) := rfl
theorem exec_tsx :
    exec .tsx s = .next ((s.setX s.sp).setP (s.p.setNZ s.sp)) := rfl
theorem exec_txa :
    exec .txa s = .next ((s.setA s.x).setP (s.p.setNZ s.x)) := rfl
theorem exec_tya :
    exec .tya s = .next ((s.setA s.y).setP (s.p.setNZ s.y)) := rfl
theorem exec_txs :
    exec .txs s = .next (s.setSp s.x) := rfl
theorem exec_inx :
    exec .inx s = .next ((s.setX (s.x + 1)).setP (s.p.setNZ (s.x + 1))) := rfl
theorem exec_iny :
    exec .iny s = .next ((s.setY (s.y + 1)).setP (s.p.setNZ (s.y + 1))) := rfl
theorem exec_dex :
    exec .dex s = .next ((s.setX (s.x - 1)).setP (s.p.setNZ (s.x - 1))) := rfl
theorem exec_dey :
    exec .dey s = .next ((s.setY (s.y - 1)).setP (s.p.setNZ (s.y - 1))) := rfl
theorem exec_inc (dst : MemOperand) :
    exec (.inc dst) s = .next (modifyMemory dst incFlags s) := rfl
theorem exec_dec (dst : MemOperand) :
    exec (.dec dst) s = .next (modifyMemory dst decFlags s) := rfl
theorem exec_clc :
    exec .clc s = .next (s.setP { s.p with c := false }) := rfl
theorem exec_sec :
    exec .sec s = .next (s.setP { s.p with c := true }) := rfl
theorem exec_cli :
    exec .cli s = .next (s.setP { s.p with i := false }) := rfl
theorem exec_sei :
    exec .sei s = .next (s.setP { s.p with i := true }) := rfl
theorem exec_cld :
    exec .cld s = .next (s.setP { s.p with d := false }) := rfl
theorem exec_sed :
    exec .sed s = .next (s.setP { s.p with d := true }) := rfl
theorem exec_clv :
    exec .clv s = .next (s.setP { s.p with v := false }) := rfl
theorem exec_jmp (tgt : MemOperand) :
    exec (.jmp tgt) s = .next (s.setPc (resolve tgt s)) := rfl
theorem exec_jsr (tgt : Addr) :
    exec (.jsr tgt) s = .next (((s.push (hiByte (s.pc - 1))).push (loByte (s.pc - 1))).setPc tgt) := rfl
theorem exec_rts :
    exec .rts s = .next (s.afterPull.afterPull.setPc (joinBytes s.afterPull.pulled s.pulled + 1)) := rfl
theorem exec_brk :
    exec .brk s = .next (s.enter (s.pc + 1) Config.irqVector true) := rfl
theorem exec_rti :
    exec .rti s = .next (s.returnFromInterrupt) := rfl
theorem exec_nop :
    exec .nop s = .next (s) := rfl
theorem exec_illegal (op : Byte) :
    exec (.illegal op) s = .next (s.raiseIllegal op (s.pc - 1)) := rfl

/-! ## The read-modify-write operation, field by field -/

theorem modify_acc (f : Flags → Byte → Byte × Flags) :
    modify .acc f s = (s.setA (f s.p s.a).1).setP (f s.p s.a).2 := rfl

theorem modify_mem (m : MemOperand) (f : Flags → Byte → Byte × Flags) :
    modify (.mem m) f s = (s.write (resolve m s) (f s.p (s.read (resolve m s))).1).setP
      (f s.p (s.read (resolve m s))).2 := rfl

theorem modifyMemory_eq (m : MemOperand) (f : Flags → Byte → Byte × Flags) :
    modifyMemory m f s = (s.write (resolve m s) (f s.p (s.read (resolve m s))).1).setP
      (f s.p (s.read (resolve m s))).2 := rfl

/-! ## A branch, field by field -/

@[simp] theorem branchIf_pc (cond : Bool) (d : Byte) :
    (branchIf cond d s).pc = if cond then s.pc + sext16 d else s.pc := by
  rw [branchIf_eq]; rfl

@[simp] theorem branchIf_a (cond : Bool) (d : Byte) : (branchIf cond d s).a = s.a := by
  cases cond <;> rfl
@[simp] theorem branchIf_x (cond : Bool) (d : Byte) : (branchIf cond d s).x = s.x := by
  cases cond <;> rfl
@[simp] theorem branchIf_y (cond : Bool) (d : Byte) : (branchIf cond d s).y = s.y := by
  cases cond <;> rfl
@[simp] theorem branchIf_sp (cond : Bool) (d : Byte) : (branchIf cond d s).sp = s.sp := by
  cases cond <;> rfl
@[simp] theorem branchIf_p (cond : Bool) (d : Byte) : (branchIf cond d s).p = s.p := by
  cases cond <;> rfl
@[simp] theorem branchIf_mem (cond : Bool) (d : Byte) : (branchIf cond d s).mem = s.mem := by
  cases cond <;> rfl
@[simp] theorem branchIf_nmiPending (cond : Bool) (d : Byte) : (branchIf cond d s).nmiPending = s.nmiPending := by
  cases cond <;> rfl
@[simp] theorem branchIf_irqLine (cond : Bool) (d : Byte) : (branchIf cond d s).irqLine = s.irqLine := by
  cases cond <;> rfl
@[simp] theorem branchIf_run (cond : Bool) (d : Byte) : (branchIf cond d s).run = s.run := by
  cases cond <;> rfl
@[simp] theorem branchIf_read (cond : Bool) (d : Byte) (b : Addr) : (branchIf cond d s).read b = s.read b := by
  cases cond <;> rfl

end Sys2Proof.Machine
end

