-- ==== Sys2Proof/Laws/Step.lean ====
section
/-! SUPPORT. What a step can do, once: the cases of R260, as equations and as one inversion lemma. -/

namespace Sys2Proof.Machine

theorem step_notReset {s : State} (h : s.run = .notReset) : step s = .refused .notStarted := by
  simp [step, h]

theorem step_halted {s : State} {f : Fault} (h : s.run = .halted f) : step s = .fault f := by
  simp [step, h]

theorem step_nmi {s : State} (hr : s.run = .running) (hn : s.nmiPending = true) : step s = .next s.enterNmi := by
  simp [step, hr, State.interrupt?, hn]

theorem step_irq {s : State} (hr : s.run = .running) (hn : s.nmiPending = false) (hl : s.irqLine = true)
    (hi : s.p.i = false) : step s = .next s.enterIrq := by
  simp [step, hr, State.interrupt?, hn, hl, hi]

theorem step_ready {s : State} (h : s.Ready) : step s = s.dispatch := by
  simp [step, h.1, State.interrupt?, h.2.1, h.2.2]

/-- A step that answers a next state entered the NMI, entered the IRQ, or ran the fetched instruction. -/
theorem step_cases {s t : State} (h : step s = .next t) :
    s.run = .running ∧
      ((s.nmiPending = true ∧ t = s.enterNmi) ∨
       (s.nmiPending = false ∧ s.irqLine = true ∧ s.p.i = false ∧ t = s.enterIrq) ∨
       (s.Ready ∧ exec s.fetched (s.pastInstr s.fetched) = .next t)) := by
  cases hr : s.run with
  | notReset => rw [step_notReset hr] at h; cases h
  | halted f => rw [step_halted hr] at h; cases h
  | running =>
    refine ⟨rfl, ?_⟩
    cases hn : s.nmiPending with
    | true =>
      rw [step_nmi hr hn] at h
      injection h with h
      exact .inl ⟨rfl, h.symm⟩
    | false =>
      by_cases hi : s.irqLine = true ∧ s.p.i = false
      · rw [step_irq hr hn hi.1 hi.2] at h
        injection h with h
        exact .inr (.inl ⟨rfl, hi.1, hi.2, h.symm⟩)
      · have ready : s.Ready := ⟨hr, hn, by
          cases hl : s.irqLine <;> cases hp : s.p.i <;> simp_all⟩
        rw [step_ready ready] at h
        exact .inr (.inr ⟨ready, h⟩)

/-- The instruction fetched is the one the bytes at PC decode to. -/
theorem decode_fetched (s : State) (rest : List Byte) :
    decode (s.read s.pc :: s.read (s.pc + 1) :: s.read (s.pc + 2) :: rest) =
      .ok (s.fetched, (s.read (s.pc + 1) :: s.read (s.pc + 2) :: rest).drop (opForm (s.read s.pc)).operandBytes) :=
  decode_build _ _ _ _

theorem fetched_wellFormed (s : State) : s.fetched.wellFormed = true := (build_sound _ _ _).1

theorem fetched_length (s : State) : s.fetched.length = opLength (s.read s.pc) := build_length _ _ _

/-- R85: an ILLEGAL byte is fetched as itself. -/
theorem fetched_illegal {s : State} (h : s.read s.pc ∈ illegalBytes) : s.fetched = .illegal (s.read s.pc) := by
  simp only [State.fetched]
  rw [(build_sound _ 0 0).2.2.2.2 h]
  rfl

/-- R84: a legal byte is never fetched as ILLEGAL. -/
theorem fetched_ne_illegal {s : State} (h : s.read s.pc ∉ illegalBytes) (o : Byte) : s.fetched ≠ .illegal o :=
  (build_sound _ _ _).2.2.2.1 h o

end Sys2Proof.Machine
end

