-- ==== Sys2Proof/Laws/Host.lean ====
section
/-! SUPPORT. The host's operations: what Reset leaves in each field, and that a state with an instruction placed at PC
is at a boundary where no interrupt is due. -/

namespace Sys2Proof.Machine

variable (s : State)

@[simp] theorem State.hostReset_a : s.hostReset.a = 0x00 := rfl
@[simp] theorem State.hostReset_x : s.hostReset.x = 0x00 := rfl
@[simp] theorem State.hostReset_y : s.hostReset.y = 0x00 := rfl
@[simp] theorem State.hostReset_sp : s.hostReset.sp = 0xFF := rfl
@[simp] theorem State.hostReset_pc :
    s.hostReset.pc = s.readPair Config.resetVector (Config.resetVector + 1) := rfl
@[simp] theorem State.hostReset_p : s.hostReset.p = Flags.reset := rfl
@[simp] theorem State.hostReset_mem : s.hostReset.mem = s.mem := rfl
@[simp] theorem State.hostReset_nmiPending : s.hostReset.nmiPending = false := rfl
@[simp] theorem State.hostReset_irqLine : s.hostReset.irqLine = s.irqLine := rfl
@[simp] theorem State.hostReset_run : s.hostReset.run = .running := rfl
@[simp] theorem State.hostReset_read (a : Addr) : s.hostReset.read a = s.read a := rfl

/-- The reset vector of a memory that lists no byte. -/
theorem readPair_of_mem_nil {s : State} (hm : s.mem = []) (lo hi : Addr) : s.readPair lo hi = 0x0000 := by
  simp only [State.readPair, State.read, hm, Memory.read_nil]
  decide

/-- Reset of any state that lists no byte and whose IRQ line is not asserted is the state after reset. -/
theorem reset_eq_hostReset {s : State} (hm : s.mem = []) (hl : s.irqLine = false) : s.hostReset = State.reset := by
  simp only [State.hostReset, State.reset, readPair_of_mem_nil hm, hm, hl]

/-- The state that withFetchWord answers is at a boundary where no interrupt is due. -/
theorem withFetchWord_ready (nbits w : Nat) : (s.withFetchWord nbits w).Ready := by
  refine ⟨by simp [State.withFetchWord], by simp [State.withFetchWord], ?_⟩
  simp [State.withFetchWord]

end Sys2Proof.Machine
end

