-- ==== Sys2Proof/Laws/PerInstr.lean ====
section
/-! SUPPORT. EncodedLength: of every instruction, that it is at most three bytes long and that its encoding, where it has
one, has its length (30_encoding.md R81, R87). One lemma for each constructor of Instr. -/

namespace Sys2Proof

theorem MemOperand.bytes_length_le (m : MemOperand) : m.bytes.length ≤ 2 := by
  cases m <;> simp [MemOperand.bytes]

theorem Source.bytes_length_le (o : Source) : o.bytes.length ≤ 2 := by
  cases o with
  | imm n => simp [Source.bytes]
  | mem m => exact MemOperand.bytes_length_le m

theorem Target.bytes_length_le (o : Target) : o.bytes.length ≤ 2 := by
  cases o with
  | acc => simp [Target.bytes]
  | mem m => exact MemOperand.bytes_length_le m

end Sys2Proof

namespace Sys2Proof.Laws.EncodedLength

/-- R81: an instruction is at most three bytes long, and its encoding is as long as it says. -/
def Statement (i : Instr) : Prop := i.length ≤ 3 ∧ ∀ bs, encode i = some bs → bs.length = i.length

/-- The encoding is the opcode byte and the operand bytes; only their number is left to bound. -/
theorem statement_of_le {i : Instr} (h : i.operandBytes.length ≤ 2) : Statement i := by
  refine ⟨by unfold Instr.length; omega, fun bs hb => ?_⟩
  obtain ⟨op, _, rfl⟩ := Option.map_eq_some_iff.mp hb
  simp [Instr.length, Nat.add_comm]

theorem lda (o : Source) : Statement (.lda o) := statement_of_le (Source.bytes_length_le o)
theorem ldx (o : Source) : Statement (.ldx o) := statement_of_le (Source.bytes_length_le o)
theorem ldy (o : Source) : Statement (.ldy o) := statement_of_le (Source.bytes_length_le o)
theorem sta (o : MemOperand) : Statement (.sta o) := statement_of_le (MemOperand.bytes_length_le o)
theorem stx (o : MemOperand) : Statement (.stx o) := statement_of_le (MemOperand.bytes_length_le o)
theorem sty (o : MemOperand) : Statement (.sty o) := statement_of_le (MemOperand.bytes_length_le o)
theorem adc (o : Source) : Statement (.adc o) := statement_of_le (Source.bytes_length_le o)
theorem sbc (o : Source) : Statement (.sbc o) := statement_of_le (Source.bytes_length_le o)
theorem and (o : Source) : Statement (.and o) := statement_of_le (Source.bytes_length_le o)
theorem ora (o : Source) : Statement (.ora o) := statement_of_le (Source.bytes_length_le o)
theorem eor (o : Source) : Statement (.eor o) := statement_of_le (Source.bytes_length_le o)
theorem bit (o : Source) : Statement (.bit o) := statement_of_le (Source.bytes_length_le o)
theorem asl (o : Target) : Statement (.asl o) := statement_of_le (Target.bytes_length_le o)
theorem lsr (o : Target) : Statement (.lsr o) := statement_of_le (Target.bytes_length_le o)
theorem rol (o : Target) : Statement (.rol o) := statement_of_le (Target.bytes_length_le o)
theorem ror (o : Target) : Statement (.ror o) := statement_of_le (Target.bytes_length_le o)
theorem cmp (o : Source) : Statement (.cmp o) := statement_of_le (Source.bytes_length_le o)
theorem cpx (o : Source) : Statement (.cpx o) := statement_of_le (Source.bytes_length_le o)
theorem cpy (o : Source) : Statement (.cpy o) := statement_of_le (Source.bytes_length_le o)
theorem bcc (b : Byte) : Statement (.bcc b) := statement_of_le (by simp [Instr.operandBytes])
theorem bcs (b : Byte) : Statement (.bcs b) := statement_of_le (by simp [Instr.operandBytes])
theorem beq (b : Byte) : Statement (.beq b) := statement_of_le (by simp [Instr.operandBytes])
theorem bne (b : Byte) : Statement (.bne b) := statement_of_le (by simp [Instr.operandBytes])
theorem bmi (b : Byte) : Statement (.bmi b) := statement_of_le (by simp [Instr.operandBytes])
theorem bpl (b : Byte) : Statement (.bpl b) := statement_of_le (by simp [Instr.operandBytes])
theorem bvc (b : Byte) : Statement (.bvc b) := statement_of_le (by simp [Instr.operandBytes])
theorem bvs (b : Byte) : Statement (.bvs b) := statement_of_le (by simp [Instr.operandBytes])
theorem pha : Statement .pha := statement_of_le (by simp [Instr.operandBytes])
theorem pla : Statement .pla := statement_of_le (by simp [Instr.operandBytes])
theorem plp : Statement .plp := statement_of_le (by simp [Instr.operandBytes])
theorem php : Statement .php := statement_of_le (by simp [Instr.operandBytes])
theorem tax : Statement .tax := statement_of_le (by simp [Instr.operandBytes])
theorem tay : Statement .tay := statement_of_le (by simp [Instr.operandBytes])
theorem tsx : Statement .tsx := statement_of_le (by simp [Instr.operandBytes])
theorem txa : Statement .txa := statement_of_le (by simp [Instr.operandBytes])
theorem txs : Statement .txs := statement_of_le (by simp [Instr.operandBytes])
theorem tya : Statement .tya := statement_of_le (by simp [Instr.operandBytes])
theorem inx : Statement .inx := statement_of_le (by simp [Instr.operandBytes])
theorem iny : Statement .iny := statement_of_le (by simp [Instr.operandBytes])
theorem dex : Statement .dex := statement_of_le (by simp [Instr.operandBytes])
theorem dey : Statement .dey := statement_of_le (by simp [Instr.operandBytes])
theorem inc (o : MemOperand) : Statement (.inc o) := statement_of_le (MemOperand.bytes_length_le o)
theorem dec (o : MemOperand) : Statement (.dec o) := statement_of_le (MemOperand.bytes_length_le o)
theorem clc : Statement .clc := statement_of_le (by simp [Instr.operandBytes])
theorem sec : Statement .sec := statement_of_le (by simp [Instr.operandBytes])
theorem cli : Statement .cli := statement_of_le (by simp [Instr.operandBytes])
theorem sei : Statement .sei := statement_of_le (by simp [Instr.operandBytes])
theorem cld : Statement .cld := statement_of_le (by simp [Instr.operandBytes])
theorem sed : Statement .sed := statement_of_le (by simp [Instr.operandBytes])
theorem clv : Statement .clv := statement_of_le (by simp [Instr.operandBytes])
theorem jmp (o : MemOperand) : Statement (.jmp o) := statement_of_le (MemOperand.bytes_length_le o)
theorem jsr (a : Addr) : Statement (.jsr a) := statement_of_le (by simp [Instr.operandBytes])
theorem rts : Statement .rts := statement_of_le (by simp [Instr.operandBytes])
theorem brk : Statement .brk := statement_of_le (by simp [Instr.operandBytes])
theorem rti : Statement .rti := statement_of_le (by simp [Instr.operandBytes])
theorem nop : Statement .nop := statement_of_le (by simp [Instr.operandBytes])
theorem illegal (b : Byte) : Statement (.illegal b) := statement_of_le (by simp [Instr.operandBytes])

end Sys2Proof.Laws.EncodedLength
end

