-- ==== Sys2Proof/Tests/Slice0.lean ====
section
/-! SUPPORT. The model's own tests. Expected values are those of spec/95_test_vectors.md (the vector's number is in the
test's comment) or of the rule named there; encodings are those of 30_encoding.md R84. The last part shows, for every
obligation with hypotheses, a state and operands that meet them. -/

namespace Sys2Proof.Tests

open Sys2Proof Machine

/-! ## WellFormed refuses an ill-formed term of every check -/

theorem test_illformed_source :
    (Instr.lda (.mem (.zpy 0))).wellFormed = false ∧ (Instr.ldx (.mem (.zpx 0))).wellFormed = false ∧
    (Instr.ldy (.mem (.absy 0))).wellFormed = false ∧ (Instr.adc (.mem (.ind 0))).wellFormed = false ∧
    (Instr.sbc (.mem (.zpy 0))).wellFormed = false ∧ (Instr.and (.mem (.ind 0))).wellFormed = false ∧
    (Instr.ora (.mem (.zpy 0))).wellFormed = false ∧ (Instr.eor (.mem (.ind 0))).wellFormed = false ∧
    (Instr.bit (.imm 0)).wellFormed = false ∧ (Instr.cmp (.mem (.zpy 0))).wellFormed = false ∧
    (Instr.cpx (.mem (.zpx 0))).wellFormed = false ∧ (Instr.cpy (.mem (.absx 0))).wellFormed = false := by decide

theorem test_illformed_memory :
    (Instr.sta (.zpy 0)).wellFormed = false ∧ (Instr.stx (.zpx 0)).wellFormed = false ∧
    (Instr.sty (.absx 0)).wellFormed = false ∧ (Instr.inc (.absy 0)).wellFormed = false ∧
    (Instr.dec (.indy 0)).wellFormed = false ∧ (Instr.jmp (.absx 0)).wellFormed = false := by decide

theorem test_illformed_target :
    (Instr.asl (.mem (.absy 0))).wellFormed = false ∧ (Instr.lsr (.mem (.zpy 0))).wellFormed = false ∧
    (Instr.rol (.mem (.indx 0))).wellFormed = false ∧ (Instr.ror (.mem (.ind 0))).wellFormed = false := by decide

/-- A9 and 00 are legal bytes (R85). -/
theorem test_illformed_illegal :
    (Instr.illegal 0xA9).wellFormed = false ∧ (Instr.illegal 0x00).wellFormed = false := by decide

/-! ## Decoding: every mode of the first instruction of a shape, then one form of each other instruction -/

theorem test_decode_loads :
    decode [0b10101001, 0x05] = .ok (.lda (.imm 0x05), []) ∧ decode [0b10100101, 0x42] = .ok (.lda (.mem (.zp 0x42)), []) ∧
    decode [0b10110101, 0xFF] = .ok (.lda (.mem (.zpx 0xFF)), []) ∧
    decode [0b10101101, 0x34, 0x12] = .ok (.lda (.mem (.abs 0x1234)), []) ∧
    decode [0b10111101, 0xF0, 0x12] = .ok (.lda (.mem (.absx 0x12F0)), []) ∧
    decode [0b10111001, 0x00, 0x03] = .ok (.lda (.mem (.absy 0x0300)), []) ∧
    decode [0b10100001, 0x20] = .ok (.lda (.mem (.indx 0x20)), []) ∧
    decode [0b10110001, 0x86] = .ok (.lda (.mem (.indy 0x86)), []) ∧
    decode [0b10110110, 0x80] = .ok (.ldx (.mem (.zpy 0x80)), []) ∧
    decode [0b10111110, 0x80, 0x02] = .ok (.ldx (.mem (.absy 0x0280)), []) ∧
    decode [0b10100000, 0x00] = .ok (.ldy (.imm 0x00), []) ∧
    decode [0b10111100, 0x01, 0x02] = .ok (.ldy (.mem (.absx 0x0201)), []) := by
  and_intros <;> decide

theorem test_decode_stores :
    decode [0b10010001, 0x10] = .ok (.sta (.indy 0x10), []) ∧ decode [0b10000001, 0x20] = .ok (.sta (.indx 0x20), []) ∧
    decode [0b10010110, 0xF0] = .ok (.stx (.zpy 0xF0), []) ∧
    decode [0b10001100, 0x00, 0x03] = .ok (.sty (.abs 0x0300), []) := by
  and_intros <;> decide

theorem test_decode_arithmetic_and_logic :
    decode [0b01101001, 0x03] = .ok (.adc (.imm 0x03), []) ∧ decode [0b11101001, 0x01] = .ok (.sbc (.imm 0x01), []) ∧
    decode [0b00101001, 0x0F] = .ok (.and (.imm 0x0F), []) ∧ decode [0b00001001, 0x01] = .ok (.ora (.imm 0x01), []) ∧
    decode [0b01001001, 0xFF] = .ok (.eor (.imm 0xFF), []) ∧
    decode [0b00101100, 0x00, 0x02] = .ok (.bit (.mem (.abs 0x0200)), []) := by
  and_intros <;> decide

theorem test_decode_shifts_and_compares :
    decode [0b00001010] = .ok (.asl .acc, []) ∧ decode [0b01000110, 0x10] = .ok (.lsr (.mem (.zp 0x10)), []) ∧
    decode [0b00111110, 0x00, 0x02] = .ok (.rol (.mem (.absx 0x0200)), []) ∧
    decode [0b01101110, 0x00, 0x02] = .ok (.ror (.mem (.abs 0x0200)), []) ∧
    decode [0b11001001, 0x10] = .ok (.cmp (.imm 0x10), []) ∧ decode [0b11100000, 0x05] = .ok (.cpx (.imm 0x05), []) ∧
    decode [0b11000000, 0x01] = .ok (.cpy (.imm 0x01), []) := by
  and_intros <;> decide

theorem test_decode_branches :
    decode [0b10010000, 0x10] = .ok (.bcc 0x10, []) ∧ decode [0b10110000, 0xFC] = .ok (.bcs 0xFC, []) ∧
    decode [0b11110000, 0x7F] = .ok (.beq 0x7F, []) ∧ decode [0b11010000, 0x80] = .ok (.bne 0x80, []) ∧
    decode [0b00110000, 0x00] = .ok (.bmi 0x00, []) ∧ decode [0b00010000, 0xFE] = .ok (.bpl 0xFE, []) ∧
    decode [0b01010000, 0x20] = .ok (.bvc 0x20, []) ∧ decode [0b01110000, 0x20] = .ok (.bvs 0x20, []) := by
  and_intros <;> decide

theorem test_decode_stack_and_transfers :
    decode [0b01001000] = .ok (.pha, []) ∧ decode [0b01101000] = .ok (.pla, []) ∧ decode [0b00101000] = .ok (.plp, []) ∧
    decode [0b00001000] = .ok (.php, []) ∧ decode [0b10101010] = .ok (.tax, []) ∧ decode [0b10101000] = .ok (.tay, []) ∧
    decode [0b10111010] = .ok (.tsx, []) ∧ decode [0b10001010] = .ok (.txa, []) ∧ decode [0b10011010] = .ok (.txs, []) ∧
    decode [0b10011000] = .ok (.tya, []) ∧ decode [0b11101000] = .ok (.inx, []) ∧ decode [0b11001000] = .ok (.iny, []) ∧
    decode [0b11001010] = .ok (.dex, []) ∧ decode [0b10001000] = .ok (.dey, []) ∧
    decode [0b11100110, 0xFF] = .ok (.inc (.zp 0xFF), []) ∧ decode [0b11010110, 0xFF] = .ok (.dec (.zpx 0xFF), []) := by
  and_intros <;> decide

theorem test_decode_flags_and_control :
    decode [0b00011000] = .ok (.clc, []) ∧ decode [0b00111000] = .ok (.sec, []) ∧ decode [0b01011000] = .ok (.cli, []) ∧
    decode [0b01111000] = .ok (.sei, []) ∧ decode [0b11011000] = .ok (.cld, []) ∧ decode [0b11111000] = .ok (.sed, []) ∧
    decode [0b10111000] = .ok (.clv, []) ∧ decode [0b01001100, 0x34, 0x12] = .ok (.jmp (.abs 0x1234), []) ∧
    decode [0b01101100, 0xFF, 0x10] = .ok (.jmp (.ind 0x10FF), []) ∧
    decode [0b00100000, 0x00, 0x90] = .ok (.jsr 0x9000, []) ∧ decode [0b01100000] = .ok (.rts, []) ∧
    decode [0b00000000] = .ok (.brk, []) ∧ decode [0b01000000] = .ok (.rti, []) ∧ decode [0b11101010] = .ok (.nop, []) ∧
    decode [0b00000010] = .ok (.illegal 0x02, []) := by
  and_intros <;> decide

/-- Too few bytes are rejected by name. -/
theorem test_decode_truncated :
    decode [] = .error .noByte ∧ decode [0xA9] = .error (.truncated 0xA9) ∧
    decode [0xAD, 0x34] = .error (.truncated 0xAD) := by decide

/-- spec/opcode_table.json numbers the first byte's bits 7..0, and the operand bytes' bits count on from 8. -/
theorem test_decodeTableWord :
    decodeTableWord 16 0x05A9 = some (.lda (.imm 0x05)) ∧ decodeTableWord 24 0x123420 = some (.jsr 0x1234) ∧
    decodeTableWord 8 0x05A9 = some (.lda (.imm 0x00)) := by decide

/-! ## One step -/

/-- The start state of 95_test_vectors.md: A, X, Y 0, SP FF, P 24, PC 8000, memory 00. -/
def start : State := State.reset.setPc 0x8000

/-- Bytes stored from an address on. -/
def State.put (s : State) (a : Addr) (bytes : List Byte) : State :=
  match bytes with
  | [] => s
  | b :: rest => State.put (s.write a b) (a + 1) rest

/-- A state with code at 8000. -/
def State.code (s : State) (bytes : List Byte) : State := State.put s 0x8000 bytes

/-- The state with P as a status byte gives it. -/
def State.status (s : State) (v : Byte) : State := s.setP (restoreStatus v)

/-- What a test looks at: A, X, Y, SP, PC and P. -/
def regs (s : State) : Byte × Byte × Byte × Byte × Addr × Byte := (s.a, s.x, s.y, s.sp, s.pc, s.p.toByte)

/-- The state after a step that answers one. -/
def after (s : State) : Option State :=
  match step s with
  | .next t => some t
  | .fault _ => none
  | .refused _ => none

/-- The registers after a step. -/
def regsAfter (s : State) : Option (Byte × Byte × Byte × Byte × Addr × Byte) := (after s).map regs

/-- A byte of memory after a step. -/
def byteAfter (s : State) (a : Addr) : Option Byte := (after s).map fun t => t.read a

/-- S4. -/
theorem test_lda_zpx_wraps :
    regsAfter (State.code (State.put (State.put (start.setX 0x02) 0x0001 [0x77]) 0x0101 [0x99]) [0xB5, 0xFF]) = some (0x77, 0x02, 0x00, 0xFF, 0x8002, 0x24) := by decide

/-- LS9. -/
theorem test_lda_indy_pointer_wraps :
    regsAfter (State.code (State.put (State.put (State.put (start.setY 0x01) 0x00FF [0xFF]) 0x0000 [0x02]) 0x0300 [0x08]) [0xB1, 0xFF]) = some (0x08, 0x00, 0x01, 0xFF, 0x8002, 0x24) := by decide

/-- LS5. -/
theorem test_ldx_zpy :
    regsAfter (State.code (State.put (start.setY 0x90) 0x0010 [0x66]) [0xB6, 0x80]) = some (0x00, 0x66, 0x90, 0xFF, 0x8002, 0x24) := by decide

/-- LS4. -/
theorem test_ldy_zero :
    regsAfter (State.code start [0xA0, 0x00]) = some (0x00, 0x00, 0x00, 0xFF, 0x8002, 0x26) := by decide

/-- LS11. -/
theorem test_sta_indy :
    regsAfter (State.code (State.put ((start.setA 0x5A).setY 0x10) 0x0010 [0xF8, 0x02]) [0x91, 0x10]) = some (0x5A, 0x00, 0x10, 0xFF, 0x8002, 0x24) ∧
    byteAfter (State.code (State.put ((start.setA 0x5A).setY 0x10) 0x0010 [0xF8, 0x02]) [0x91, 0x10]) 0x0308 = some 0x5A := by decide

/-- LS12. -/
theorem test_sta_indx :
    regsAfter (State.code (State.put ((start.setA 0x99).setX 0x04) 0x0024 [0x00, 0x03]) [0x81, 0x20]) = some (0x99, 0x04, 0x00, 0xFF, 0x8002, 0x24) ∧
    byteAfter (State.code (State.put ((start.setA 0x99).setX 0x04) 0x0024 [0x00, 0x03]) [0x81, 0x20]) 0x0300 = some 0x99 := by decide

/-- LS13. -/
theorem test_stx_zp :
    regsAfter (State.code ((State.status start 0xA6).setX 0x05) [0x86, 0x10]) = some (0x00, 0x05, 0x00, 0xFF, 0x8002, 0xA6) ∧
    byteAfter (State.code ((State.status start 0xA6).setX 0x05) [0x86, 0x10]) 0x0010 = some 0x05 := by decide

/-- LS14. -/
theorem test_sty_abs :
    regsAfter (State.code (start.setY 0x07) [0x8C, 0x00, 0x03]) = some (0x00, 0x00, 0x07, 0xFF, 0x8003, 0x24) ∧
    byteAfter (State.code (start.setY 0x07) [0x8C, 0x00, 0x03]) 0x0300 = some 0x07 := by decide

/-- AD7. -/
theorem test_adc_overflow :
    regsAfter (State.code (start.setA 0xD0) [0x69, 0x90]) = some (0x60, 0x00, 0x00, 0xFF, 0x8002, 0x65) := by decide

/-- AD10. -/
theorem test_adc_decimal_is_binary :
    regsAfter (State.code ((State.status start 0x2C).setA 0x09) [0x69, 0x01]) = some (0x0A, 0x00, 0x00, 0xFF, 0x8002, 0x2C) := by decide

/-- SB5, carry in 1. -/
theorem test_sbc_borrow :
    regsAfter (State.code ((State.status start 0x25).setA 0x00) [0xE9, 0x01]) = some (0xFF, 0x00, 0x00, 0xFF, 0x8002, 0xA4) := by decide

/-- SB6, carry in 1. -/
theorem test_sbc_overflow :
    regsAfter (State.code ((State.status start 0x25).setA 0x80) [0xE9, 0x01]) = some (0x7F, 0x00, 0x00, 0xFF, 0x8002, 0x65) := by decide

/-- LG1. -/
theorem test_and :
    regsAfter (State.code (start.setA 0xF0) [0x29, 0x0F]) = some (0x00, 0x00, 0x00, 0xFF, 0x8002, 0x26) := by decide

/-- LG3. -/
theorem test_ora :
    regsAfter (State.code (start.setA 0x80) [0x09, 0x01]) = some (0x81, 0x00, 0x00, 0xFF, 0x8002, 0xA4) := by decide

/-- LG5. -/
theorem test_eor :
    regsAfter (State.code (start.setA 0x3C) [0x49, 0xFF]) = some (0xC3, 0x00, 0x00, 0xFF, 0x8002, 0xA4) := by decide

/-- LG6. -/
theorem test_bit_zp :
    regsAfter (State.code (State.put (start.setA 0x01) 0x0010 [0xC0]) [0x24, 0x10]) = some (0x01, 0x00, 0x00, 0xFF, 0x8002, 0xE6) := by decide

/-- LG7. -/
theorem test_bit_clears :
    regsAfter (State.code (State.put ((State.status start 0xE6).setA 0xFF) 0x0010 [0x3F]) [0x24, 0x10]) = some (0xFF, 0x00, 0x00, 0xFF, 0x8002, 0x24) := by decide

/-- SH12: V stays. -/
theorem test_asl_acc :
    regsAfter (State.code ((State.status start 0x64).setA 0x01) [0x0A]) = some (0x02, 0x00, 0x00, 0xFF, 0x8001, 0x64) := by decide

/-- SH10. -/
theorem test_lsr_zp :
    regsAfter (State.code (State.put start 0x0010 [0x03]) [0x46, 0x10]) = some (0x00, 0x00, 0x00, 0xFF, 0x8002, 0x25) ∧
    byteAfter (State.code (State.put start 0x0010 [0x03]) [0x46, 0x10]) 0x0010 = some 0x01 := by decide

/-- SH6. -/
theorem test_rol_acc :
    regsAfter (State.code ((State.status start 0x25).setA 0x80) [0x2A]) = some (0x01, 0x00, 0x00, 0xFF, 0x8001, 0x25) := by decide

/-- SH8. -/
theorem test_ror_acc :
    regsAfter (State.code ((State.status start 0x25).setA 0x01) [0x6A]) = some (0x80, 0x00, 0x00, 0xFF, 0x8001, 0xA5) := by decide

/-- SH11. -/
theorem test_ror_abs :
    regsAfter (State.code (State.put start 0x0200 [0x02]) [0x6E, 0x00, 0x02]) = some (0x00, 0x00, 0x00, 0xFF, 0x8003, 0x24) ∧
    byteAfter (State.code (State.put start 0x0200 [0x02]) [0x6E, 0x00, 0x02]) 0x0200 = some 0x01 := by decide

/-- CP2. -/
theorem test_cmp_less :
    regsAfter (State.code (start.setA 0x10) [0xC9, 0x20]) = some (0x10, 0x00, 0x00, 0xFF, 0x8002, 0xA4) := by decide

/-- CP9. -/
theorem test_cmp_equal_keeps_v :
    regsAfter (State.code ((State.status start 0x64).setA 0x10) [0xC9, 0x10]) = some (0x10, 0x00, 0x00, 0xFF, 0x8002, 0x67) := by decide

/-- CP7. -/
theorem test_cpx :
    regsAfter (State.code (start.setX 0x05) [0xE0, 0x05]) = some (0x00, 0x05, 0x00, 0xFF, 0x8002, 0x27) := by decide

/-- CP8. -/
theorem test_cpy :
    regsAfter (State.code (start.setY 0x00) [0xC0, 0x01]) = some (0x00, 0x00, 0x00, 0xFF, 0x8002, 0xA4) := by decide

/-- BR1. -/
theorem test_bcs :
    regsAfter (State.code (State.status start 0x25) [0xB0, 0xFC]) = some (0x00, 0x00, 0x00, 0xFF, 0x7FFE, 0x25) := by decide

/-- BR2. -/
theorem test_beq :
    regsAfter (State.code (State.status start 0x26) [0xF0, 0x7F]) = some (0x00, 0x00, 0x00, 0xFF, 0x8081, 0x26) := by decide

/-- BR3. -/
theorem test_bne :
    regsAfter (State.code start [0xD0, 0x80]) = some (0x00, 0x00, 0x00, 0xFF, 0x7F82, 0x24) := by decide

/-- BR4. -/
theorem test_bmi :
    regsAfter (State.code (State.status start 0xA4) [0x30, 0x00]) = some (0x00, 0x00, 0x00, 0xFF, 0x8002, 0xA4) := by decide

/-- BR5. -/
theorem test_bpl :
    regsAfter (State.code start [0x10, 0xFE]) = some (0x00, 0x00, 0x00, 0xFF, 0x8000, 0x24) := by decide

/-- BR6. -/
theorem test_bvc_wraps :
    regsAfter (State.put (start.setPc 0xFFF0) 0xFFF0 [0x50, 0x20]) = some (0x00, 0x00, 0x00, 0xFF, 0x0012, 0x24) := by decide

/-- BR7. -/
theorem test_bvs_not_taken :
    regsAfter (State.code start [0x70, 0x20]) = some (0x00, 0x00, 0x00, 0xFF, 0x8002, 0x24) := by decide

/-- BR8. -/
theorem test_bcc :
    regsAfter (State.code start [0x90, 0x10]) = some (0x00, 0x00, 0x00, 0xFF, 0x8012, 0x24) := by decide

/-- BR9. -/
theorem test_bcc_not_taken :
    regsAfter (State.code (State.status start 0x25) [0x90, 0x10]) = some (0x00, 0x00, 0x00, 0xFF, 0x8002, 0x25) := by decide

/-- ST1. -/
theorem test_pha :
    regsAfter (State.code (start.setA 0x5A) [0x48]) = some (0x5A, 0x00, 0x00, 0xFE, 0x8001, 0x24) ∧
    byteAfter (State.code (start.setA 0x5A) [0x48]) 0x01FF = some 0x5A := by decide

/-- ST3. -/
theorem test_pla_wraps :
    regsAfter (State.code (State.put (start.setSp 0xFF) 0x0100 [0x80]) [0x68]) = some (0x80, 0x00, 0x00, 0x00, 0x8001, 0xA4) := by decide

/-- ST5. -/
theorem test_php_wraps :
    regsAfter (State.code ((State.status start 0xCF).setSp 0x00) [0x08]) = some (0x00, 0x00, 0x00, 0xFF, 0x8001, 0xEF) ∧
    byteAfter (State.code ((State.status start 0xCF).setSp 0x00) [0x08]) 0x0100 = some 0xFF := by decide

/-- ST7. -/
theorem test_plp_ignores_bits :
    regsAfter (State.code (State.put (start.setSp 0xFE) 0x01FF [0xFF]) [0x28]) = some (0x00, 0x00, 0x00, 0xFF, 0x8001, 0xEF) := by decide

/-- TR1. -/
theorem test_tax :
    regsAfter (State.code (start.setA 0x80) [0xAA]) = some (0x80, 0x80, 0x00, 0xFF, 0x8001, 0xA4) := by decide

/-- TR2. -/
theorem test_tay :
    regsAfter (State.code (start.setA 0x01) [0xA8]) = some (0x01, 0x00, 0x01, 0xFF, 0x8001, 0x24) := by decide

/-- TR3. -/
theorem test_tsx :
    regsAfter (State.code (start.setSp 0xFD) [0xBA]) = some (0x00, 0xFD, 0x00, 0xFD, 0x8001, 0xA4) := by decide

/-- TR5. -/
theorem test_txa :
    regsAfter (State.code ((start.setA 0x11).setX 0x00) [0x8A]) = some (0x00, 0x00, 0x00, 0xFF, 0x8001, 0x26) := by decide

/-- TR6. -/
theorem test_txs :
    regsAfter (State.code ((State.status start 0xA4).setX 0x00) [0x9A]) = some (0x00, 0x00, 0x00, 0x00, 0x8001, 0xA4) := by decide

/-- TR7. -/
theorem test_tya :
    regsAfter (State.code (start.setY 0xF0) [0x98]) = some (0xF0, 0x00, 0xF0, 0xFF, 0x8001, 0xA4) := by decide

/-- TR8. -/
theorem test_inx :
    regsAfter (State.code (start.setX 0xFF) [0xE8]) = some (0x00, 0x00, 0x00, 0xFF, 0x8001, 0x26) := by decide

/-- TR9. -/
theorem test_iny :
    regsAfter (State.code (start.setY 0x7F) [0xC8]) = some (0x00, 0x00, 0x80, 0xFF, 0x8001, 0xA4) := by decide

/-- TR10. -/
theorem test_dex :
    regsAfter (State.code (start.setX 0x00) [0xCA]) = some (0x00, 0xFF, 0x00, 0xFF, 0x8001, 0xA4) := by decide

/-- TR11. -/
theorem test_dey :
    regsAfter (State.code (start.setY 0x01) [0x88]) = some (0x00, 0x00, 0x00, 0xFF, 0x8001, 0x26) := by decide

/-- TR12. -/
theorem test_inc_zp :
    regsAfter (State.code (State.put start 0x00FF [0xFF]) [0xE6, 0xFF]) = some (0x00, 0x00, 0x00, 0xFF, 0x8002, 0x26) ∧
    byteAfter (State.code (State.put start 0x00FF [0xFF]) [0xE6, 0xFF]) 0x00FF = some 0x00 := by decide

/-- TR15. -/
theorem test_dec_zpx :
    regsAfter (State.code (start.setX 0x01) [0xD6, 0xFF]) = some (0x00, 0x01, 0x00, 0xFF, 0x8002, 0xA4) ∧
    byteAfter (State.code (start.setX 0x01) [0xD6, 0xFF]) 0x0000 = some 0xFF := by decide

/-- FC1. -/
theorem test_clc :
    regsAfter (State.code (State.status start 0x25) [0x18]) = some (0x00, 0x00, 0x00, 0xFF, 0x8001, 0x24) := by decide

/-- FC2. -/
theorem test_sec :
    regsAfter (State.code (State.status start 0x24) [0x38]) = some (0x00, 0x00, 0x00, 0xFF, 0x8001, 0x25) := by decide

/-- FC3. -/
theorem test_cli :
    regsAfter (State.code (State.status start 0x24) [0x58]) = some (0x00, 0x00, 0x00, 0xFF, 0x8001, 0x20) := by decide

/-- FC4. -/
theorem test_sei :
    regsAfter (State.code (State.status start 0x20) [0x78]) = some (0x00, 0x00, 0x00, 0xFF, 0x8001, 0x24) := by decide

/-- FC5. -/
theorem test_sed :
    regsAfter (State.code (State.status start 0x24) [0xF8]) = some (0x00, 0x00, 0x00, 0xFF, 0x8001, 0x2C) := by decide

/-- FC6. -/
theorem test_cld :
    regsAfter (State.code (State.status start 0x2C) [0xD8]) = some (0x00, 0x00, 0x00, 0xFF, 0x8001, 0x24) := by decide

/-- FC7. -/
theorem test_clv :
    regsAfter (State.code (State.status start 0x64) [0xB8]) = some (0x00, 0x00, 0x00, 0xFF, 0x8001, 0x24) := by decide

/-- FC9. -/
theorem test_jmp_ind_page :
    regsAfter (State.code (State.put (State.put (State.put start 0x10FF [0x34]) 0x1000 [0x12]) 0x1100 [0x56]) [0x6C, 0xFF, 0x10]) = some (0x00, 0x00, 0x00, 0xFF, 0x1234, 0x24) := by decide

/-- FC10. -/
theorem test_jmp_ind :
    regsAfter (State.code (State.put start 0x0300 [0x78, 0x56]) [0x6C, 0x00, 0x03]) = some (0x00, 0x00, 0x00, 0xFF, 0x5678, 0x24) := by decide

/-- FC13. -/
theorem test_jsr_wraps_stack :
    regsAfter (State.code (start.setSp 0x00) [0x20, 0x00, 0x90]) = some (0x00, 0x00, 0x00, 0xFE, 0x9000, 0x24) ∧
    byteAfter (State.code (start.setSp 0x00) [0x20, 0x00, 0x90]) 0x0100 = some 0x80 ∧
    byteAfter (State.code (start.setSp 0x00) [0x20, 0x00, 0x90]) 0x01FF = some 0x02 := by decide

/-- FC15. -/
theorem test_jsr_at_top :
    regsAfter (State.put (start.setPc 0xFFFD) 0xFFFD [0x20, 0xFE, 0xFF]) = some (0x00, 0x00, 0x00, 0xFD, 0xFFFE, 0x24) ∧
    byteAfter (State.put (start.setPc 0xFFFD) 0xFFFD [0x20, 0xFE, 0xFF]) 0x01FF = some 0xFF ∧
    byteAfter (State.put (start.setPc 0xFFFD) 0xFFFD [0x20, 0xFE, 0xFF]) 0x01FE = some 0xFF := by decide

/-- FC12. -/
theorem test_rts :
    regsAfter (State.code (State.put (start.setSp 0xFD) 0x01FE [0x02, 0x80]) [0x60]) = some (0x00, 0x00, 0x00, 0xFF, 0x8003, 0x24) := by decide

/-- FC14. -/
theorem test_rts_wraps :
    regsAfter (State.code (State.put (start.setSp 0xFD) 0x01FE [0xFF, 0xFF]) [0x60]) = some (0x00, 0x00, 0x00, 0xFF, 0x0000, 0x24) := by decide

/-- S7, FC16. -/
theorem test_brk :
    regsAfter (State.code (State.put (State.status start 0x20) 0xFFFE [0x00, 0x90]) [0x00]) = some (0x00, 0x00, 0x00, 0xFC, 0x9000, 0x24) ∧
    byteAfter (State.code (State.put (State.status start 0x20) 0xFFFE [0x00, 0x90]) [0x00]) 0x01FF = some 0x80 ∧
    byteAfter (State.code (State.put (State.status start 0x20) 0xFFFE [0x00, 0x90]) [0x00]) 0x01FE = some 0x02 ∧
    byteAfter (State.code (State.put (State.status start 0x20) 0xFFFE [0x00, 0x90]) [0x00]) 0x01FD = some 0x30 := by decide

/-- FC18. -/
theorem test_rti :
    regsAfter (State.code (State.put (start.setSp 0xFC) 0x01FD [0xFF, 0x34, 0x12]) [0x40]) = some (0x00, 0x00, 0x00, 0xFF, 0x1234, 0xEF) := by decide

/-- FC19. -/
theorem test_nop :
    regsAfter (State.code start [0xEA]) = some (0x00, 0x00, 0x00, 0xFF, 0x8001, 0x24) := by decide

/-- EX1. -/
theorem test_illegal :
    (after (State.code start [0x02])).map State.run = some (.halted (.illegalOpcode 0x02 0x8000)) ∧
    regsAfter (State.code start [0x02]) = some (0x00, 0x00, 0x00, 0xFF, 0x8001, 0x24) := by decide

/-- EX2, EX4. -/
theorem test_no_step :
    step (start.setRun (.halted (.illegalOpcode 0x02 0x8000))) = .fault (.illegalOpcode 0x02 0x8000) ∧
    step (start.setRun .notReset) = .refused .notStarted := ⟨rfl, rfl⟩

/-- The start of EX5. -/
def irqStart : State := (State.put (State.status start 0x20) 0xFFFE [0x00, 0x90]).setPc 0x8123 |>.setIrq true

/-- EX5. -/
theorem test_irq :
    regsAfter irqStart = some (0x00, 0x00, 0x00, 0xFC, 0x9000, 0x24) ∧
    (byteAfter irqStart 0x01FF, byteAfter irqStart 0x01FE, byteAfter irqStart 0x01FD) =
      (some 0x81, some 0x23, some 0x20) := by decide

/-- EX6. -/
theorem test_irq_masked :
    regsAfter ((State.code start [0xEA]).setIrq true) = some (0x00, 0x00, 0x00, 0xFF, 0x8001, 0x24) := by decide

/-- The start of EX7. -/
def nmiStart : State := ((State.put start 0xFFFA [0x00, 0xA0]).setNmi true).setIrq true

/-- EX7. -/
theorem test_nmi :
    regsAfter nmiStart = some (0x00, 0x00, 0x00, 0xFC, 0xA000, 0x24) ∧
    (after nmiStart).map State.nmiPending = some false ∧
    (byteAfter nmiStart 0x01FF, byteAfter nmiStart 0x01FE, byteAfter nmiStart 0x01FD) =
      (some 0x80, some 0x00, some 0x24) := by decide

/-- EX11: the expected registers and run state, whatever they were. -/
theorem test_reset :
    let s := (State.put ((start.setRun .notReset).setA 0x77) 0xFFFC [0x34, 0x12]).host .reset
    regs s = (0x00, 0x00, 0x00, 0xFF, 0x1234, 0x24) ∧ s.run = .running := by decide

/-! ## Bus traces (95_test_vectors.md) -/

/-- S5. -/
theorem test_trace_jmp_ind :
    stepAccesses (State.code start [0x6C, 0xFF, 0x10]) =
      [.read 0x8000, .read 0x8001, .read 0x8002, .read 0x10FF, .read 0x1000] := by decide

/-- LS12. -/
theorem test_trace_sta_indx :
    stepAccesses (State.code (State.put ((start.setA 0x99).setX 0x04) 0x0024 [0x00, 0x03]) [0x81, 0x20]) =
      [.read 0x8000, .read 0x8001, .read 0x0024, .read 0x0025, .write 0x0300 0x99] := by decide

/-- TR13. -/
theorem test_trace_inc_abs :
    stepAccesses (State.code (State.put start 0x0200 [0x7F]) [0xEE, 0x00, 0x02]) =
      [.read 0x8000, .read 0x8001, .read 0x8002, .read 0x0200, .write 0x0200 0x80] := by decide

/-- S7: the padding byte is not read. -/
theorem test_trace_brk :
    stepAccesses (State.status start 0x20) =
      [.read 0x8000, .write 0x01FF 0x80, .write 0x01FE 0x02, .write 0x01FD 0x30, .read 0xFFFE, .read 0xFFFF] := by
  decide

/-- FC12. -/
theorem test_trace_rts :
    stepAccesses (State.code (start.setSp 0xFD) [0x60]) = [.read 0x8000, .read 0x01FE, .read 0x01FF] := by decide

/-- EX7. -/
theorem test_trace_nmi :
    stepAccesses nmiStart =
      [.write 0x01FF 0x80, .write 0x01FE 0x00, .write 0x01FD 0x24, .read 0xFFFA, .read 0xFFFB] := by decide

/-! ## The fixed names the host asks with -/

theorem test_withFetchWord :
    (after (State.reset.withFetchWord 16 0x80A9)).map regs = some (0x80, 0x00, 0x00, 0xFF, 0x0002, 0xA4) ∧
    (after (State.reset.withFetchWord 8 0x02)).map State.run = some (.halted (.illegalOpcode 0x02 0x0000)) := by
  decide

theorem test_reset_memory_canonical : State.reset.mem.wf = true := rfl

/-- Execute stops at once, runs out of its bound, or meets the trap (R271, R272). -/
theorem test_execute :
    execute (fun _ => true) 0 start = .normal start ∧ (execute (fun _ => false) 0 start).safe = false ∧
    ∃ t, execute (fun _ => false) 2 (State.code start [0x02]) = .faulted (.illegalOpcode 0x02 0x8000) t := ⟨rfl, rfl, _, rfl⟩

/-! ## Every obligation with hypotheses: something meets them all -/

theorem test_hyps_EncodedInstructionDecodesBack :
    (Instr.jmp (.ind 0xFFFF)).wellFormed = true ∧ (Instr.illegal 0xFF).wellFormed = true := by decide

theorem test_hyps_DecodedBytesEncodeBack : decode [0xA9, 0x05, 0xEA] = .ok (.lda (.imm 0x05), [0xEA]) := by decide

theorem test_hyps_OpcodeByteAloneDecidesTheLength : (0xFF : Byte) ∈ illegalBytes ∧ (0x02 : Byte) ∈ illegalBytes := by decide

/-- PC at the top of memory, so that the operand byte wraps. -/
theorem test_hyps_StepRunsTheDecodedInstruction :
    let s := State.put (start.setPc 0xFFFF) 0xFFFF [0xA9, 0x05]
    (s.run = .running ∧ s.nmiPending = false ∧ (s.irqLine && !s.p.i) = false) ∧
    decode [s.read s.pc, s.read (s.pc + 1), s.read (s.pc + 2)] = .ok (.lda (.imm 0x05), [0x00]) := by decide

/-- One state for each of the five cases, the last with either of its reasons. -/
theorem test_hyps_StepTakesOneOfFiveCases :
    (start.setRun .notReset).run = .notReset ∧
    (start.setRun (.halted (.illegalOpcode 2 0))).run = .halted (.illegalOpcode 2 0) ∧
    (nmiStart.run = .running ∧ nmiStart.nmiPending = true) ∧
    (irqStart.run = .running ∧ irqStart.nmiPending = false ∧ irqStart.irqLine = true ∧ irqStart.p.i = false) ∧
    (start.run = .running ∧ start.nmiPending = false ∧ start.irqLine = false) ∧
    ((start.setIrq true).run = .running ∧ (start.setIrq true).nmiPending = false ∧ (start.setIrq true).p.i = true) := by
  decide

theorem test_hyps_IrqIsEnteredWhileUnmasked :
    irqStart.run = .running ∧ irqStart.nmiPending = false ∧ irqStart.irqLine = true ∧ irqStart.p.i = false := by decide

theorem test_hyps_NmiIsEnteredWhateverTheMaskAndTheIrqWaits :
    nmiStart.run = .running ∧ nmiStart.nmiPending = true ∧ nmiStart.irqLine = true ∧ nmiStart.p.i = true := by decide

theorem test_hyps_IrqFollowsCliWithoutDelay :
    let s := (State.code start [0x58]).setIrq true
    (s.run = .running ∧ s.nmiPending = false ∧ (s.irqLine && !s.p.i) = false) ∧ s.irqLine = true ∧
    s.read s.pc = 0x58 := by decide

theorem test_hyps_IllegalByteHaltsAndNothingElse :
    let s := State.code start [0xFF]
    (s.run = .running ∧ s.nmiPending = false ∧ (s.irqLine && !s.p.i) = false) ∧ s.read s.pc ∈ illegalBytes := by
  decide

theorem test_hyps_EveryInstructionCompletesAndLegalOnesNeverHalt :
    (∀ op, Instr.brk ≠ .illegal op) ∧
    (start.run = .running ∧ start.nmiPending = false ∧ (start.irqLine && !start.p.i) = false) ∧
    start.read start.pc ∉ illegalBytes := ⟨fun _ => Instr.noConfusion, by decide, by decide⟩

theorem test_hyps_HostFlagInterface :
    FlagName.c ≠ .z ∧ FlagName.n ∈ storedFlags ∧ FlagName.b ∉ storedFlags ∧ FlagName.u ∉ storedFlags := by decide

theorem test_hyps_CanonicalMemoriesThatReadAlikeAreEqual :
    Memory.wf [(0x0000, 0x01), (0xFFFF, 0xFF)] = true ∧
    ∀ a : Addr, Memory.read [(0x0000, 0x01), (0xFFFF, 0xFF)] a.toNat =
      Memory.read [(0x0000, 0x01), (0xFFFF, 0xFF)] a.toNat := ⟨by decide, fun _ => rfl⟩

theorem test_hyps_ImageBytesReadBack :
    (([(0x0000, 0x01), (0xFFFF, 0x00)] : List (Addr × Byte)).map Prod.fst).Nodup ∧
    ((0xFFFF, 0x00) : Addr × Byte) ∈ [((0x0000, 0x01) : Addr × Byte), (0xFFFF, 0x00)] ∧
    (0x8000 : Addr) ∉ ([(0x0000, 0x01), (0xFFFF, 0x00)] : List (Addr × Byte)).map Prod.fst := by decide

theorem test_hyps_FetchSeesWhatWasStored : decode [0x20, 0x00, 0x90] = .ok (.jsr 0x9000, []) := by decide

theorem test_hyps_DecimalFlagReachesNoComputation :
    (Instr.adc (.imm 0x01)) ∉ [Instr.php, .plp, .brk, .rti, .cld, .sed] := by decide

/-- Both branch clauses, for BCC. -/
theorem test_hyps_BranchesMovePcByTheSignedDisplacement :
    (!(start.setP (restoreStatus 0x25)).p.c) = false ∧ (!start.p.c) = true := by decide

/-- 256 pushes, the first and the last of them, and an address on either side of page 1. -/
theorem test_hyps_PushesWrapWithinPageOne :
    (List.replicate 256 (0x5A : Byte)).length ≤ 256 ∧ (List.replicate 256 (0x5A : Byte))[0]? = some 0x5A ∧
    (List.replicate 256 (0x5A : Byte))[255]? = some 0x5A ∧
    (0x00FF : Addr).toNat / 256 ≠ 1 ∧ (0x0200 : Addr).toNat / 256 ≠ 1 := by
  refine ⟨Nat.le_of_eq List.length_replicate, rfl, rfl, by decide, by decide⟩

/-- The page's last address, and one that is not. -/
theorem test_hyps_JmpLoadsPc : (0x10FF : Addr).toNat % 256 = 255 ∧ (0x10FE : Addr).toNat % 256 ≠ 255 := by decide

/-- The handler state is the one JSR leaves; the stack wraps. -/
theorem test_hyps_RtsReturnsBehindItsJsr :
    ∃ t, exec (.jsr 0x9000) (start.setSp 0x00) = .next t ∧ ∃ h : State, h.sp = t.sp ∧
      h.read (stackAddr (start.setSp 0x00).sp) = t.read (stackAddr (start.setSp 0x00).sp) ∧
      h.read (stackAddr ((start.setSp 0x00).sp - 1)) = t.read (stackAddr ((start.setSp 0x00).sp - 1)) :=
  ⟨_, rfl, _, rfl, rfl, rfl⟩

/-- The entry of EX5, and the handler at its first instruction. -/
theorem test_hyps_RtiResumesWhatEntryInterrupted :
    ∃ t, Entered irqStart t 0x8123 0xFFFE false ∧ ∃ h : State, h.sp = t.sp ∧
      ∀ a ∈ [stackAddr irqStart.sp, stackAddr (irqStart.sp - 1), stackAddr (irqStart.sp - 2)], h.read a = t.read a := by
  refine ⟨irqStart.enter 0x8123 0xFFFE false, ⟨?_, ?_, ?_, ?_, ?_, ?_, ?_, ?_, ?_, ?_, ?_⟩, _, rfl, fun _ _ => rfl⟩
  · decide
  · decide
  · decide
  · decide
  · decide
  · decide
  · intro r; cases r <;> decide
  · intro f; cases f <;> decide
  · intro a ha
    have e : irqStart.sp = 0xFF := rfl
    simp only [e, List.mem_cons, not_or] at ha
    have e2 : (0xFF : Byte) - 1 - 1 = 0xFF - 2 := rfl
    rw [State.enter_read, e, e2, if_neg ha.2.2.1, if_neg ha.2.1, if_neg ha.1]
  · simp
  · simp

theorem test_hyps_OnlyResetLeavesHaltedOrNotReset :
    (start.setRun (.halted (.illegalOpcode 2 0))).run ≠ .running ∧ (start.setRun .notReset).run ≠ .running ∧
    ∀ e ∈ [Event.step, .host (.setPC 0x8000), .host .requestNmi], e ≠ .host .reset := by decide

/-- Each of the three ends. -/
theorem test_hyps_ExecuteEndsInOneOfThreeWays :
    execute (fun _ => true) 0 start = .normal start ∧
    execute (fun _ => false) 0 (start.setRun (.halted (.illegalOpcode 2 0))) =
      .faulted (.illegalOpcode 2 0) (start.setRun (.halted (.illegalOpcode 2 0))) ∧
    execute (fun _ => false) 0 (start.setRun .notReset) = .refused .notStarted (start.setRun .notReset) := ⟨rfl, rfl, rfl⟩

theorem test_hyps_StepKeepsTheInvariant :
    (start.mem.wf = true ∧ start.run.lawful = true) ∧ ∃ t, step start = .next t := ⟨by decide, _, rfl⟩

/-- In Halted, too. -/
theorem test_hyps_EventsKeepTheInvariant :
    let s := (State.code start [0xFF]).setRun (.halted (.illegalOpcode 0xFF 0x8000))
    s.mem.wf = true ∧ s.run.lawful = true := by decide

theorem test_hyps_MemoryChangesAreTheBusWrites :
    (∃ t, exec (.sta (.abs 0x0200)) start = .next t) ∧ ∃ t, step start = .next t := ⟨⟨_, rfl⟩, _, rfl⟩

theorem test_hyps_NoFlagOutsideTheWritersTableChanges :
    (∃ t, exec (.cmp (.imm 0x01)) start = .next t) ∧ FlagName.v ∉ (Instr.cmp (.imm 0x01)).writesFlags := ⟨⟨_, rfl⟩, by decide⟩

theorem test_hyps_NoRegisterOutsideItsWritersChanges :
    (∃ t, exec .pla start = .next t) ∧ Reg.x ∉ (Instr.pla).writesRegs := ⟨⟨_, rfl⟩, by decide⟩

/-- AD2: A = 50, M = 50 sets V. -/
theorem test_hyps_OverflowIsSetByFiveInstructionsOnly :
    ∃ t, exec (.adc (.imm 0x50)) (start.setA 0x50) = .next t ∧ (start.setA 0x50).p.v = false ∧ t.p.v = true :=
  ⟨_, rfl, by decide, by decide⟩

/-- A three-byte instruction whose bytes wrap past the top of memory. -/
theorem test_hyps_PcAdvancesByTheInstructionLength :
    let s := State.put (start.setPc 0xFFFE) 0xFFFE [0x8D, 0x00, 0x02]
    (s.run = .running ∧ s.nmiPending = false ∧ (s.irqLine && !s.p.i) = false) ∧ Reg.pc ∉ s.fetched.writesRegs := by
  decide

theorem test_hyps_StepLeavesTheInterruptInputs :
    (∃ t, step start = .next t) ∧ (∃ t, step nmiStart = .next t) ∧ nmiStart.nmiPending = true :=
  ⟨⟨_, rfl⟩, ⟨_, rfl⟩, rfl⟩

end Sys2Proof.Tests
end

section
/-! PROOFS. The statements of 10_state.md: the status register, Reset, what an instruction may write, PC's advance and the
interrupt inputs. Each update of the state keeps a frame that lists what it writes; the frame of a whole instruction
(frame_of_exec) is the chain of its updates' frames, and the statements about writers are its parts. -/

namespace Sys2Proof.Machine

/-! ## The status byte (R26 to R31) -/

/-- R26: the bit of the status byte at which a flag stands. -/
def FlagName.bit : FlagName → Nat
  | .c => 0
  | .z => 1
  | .i => 2
  | .d => 3
  | .b => 4
  | .u => 5
  | .v => 6
  | .n => 7

theorem FlagName.mask_eq_twoPow (f : FlagName) : f.mask = BitVec.twoPow 8 f.bit := by
  cases f <;> rfl

@[simp] theorem bitOf_getElem (b : Bool) (k : Nat) (hk : k < 8) : (bitOf b)[k] = (b && decide (k = 0)) := by
  cases b <;> simp [bitOf]

/-- R27: every bit of P as read is the flag that GetFlag answers. -/
theorem Flags.toByte_getLsbD_bit (p : Flags) (f : FlagName) : p.toByte.getLsbD f.bit = p.getFlag f := by
  cases f <;> simp [Flags.toByte, FlagName.bit, Flags.getFlag]

/-- R28: a pushed status byte differs from P as read in bit 4 only. -/
theorem pushedStatus_getLsbD_bit (p : Flags) (b : Bool) (f : FlagName) :
    (pushedStatus p b).getLsbD f.bit = if f = .b then b else p.getFlag f := by
  have h := p.toByte_getLsbD_bit f
  cases f <;> simp [pushedStatus, FlagName.bit] at h ⊢ <;> simp [h, Flags.getFlag]

/-- A byte that has every stored flag at its bit is a status byte of the flags. -/
theorem FlagsOfByte.of_bits {p : Flags} {v : Byte} (h : ∀ f ∈ storedFlags, v.getLsbD f.bit = p.getFlag f) :
    FlagsOfByte p v :=
  ⟨(h .c (by decide)).symm, (h .z (by decide)).symm, (h .i (by decide)).symm, (h .d (by decide)).symm,
    (h .v (by decide)).symm, (h .n (by decide)).symm⟩

theorem flagsOfByte_toByte (p : Flags) : FlagsOfByte p p.toByte :=
  .of_bits fun f _ => p.toByte_getLsbD_bit f

theorem flagsOfByte_pushedStatus (p : Flags) (b : Bool) : FlagsOfByte p (pushedStatus p b) :=
  .of_bits fun f hf => by
    have hb : f ≠ .b := by rintro rfl; exact absurd hf (by decide)
    rw [pushedStatus_getLsbD_bit, if_neg hb]

/-- R29: the flags of a status byte are those that restoring it gives. -/
theorem FlagsOfByte.restoreStatus_eq {p : Flags} {v : Byte} (h : FlagsOfByte p v) : restoreStatus v = p := by
  obtain ⟨hc, hz, hi, hd, hv, hn⟩ := h
  simp only [restoreStatus, ← hc, ← hz, ← hi, ← hd, ← hv, ← hn]

/-- R28, R29: what PHP pushes, PLP restores. -/
@[simp] theorem restoreStatus_pushedStatus (p : Flags) (b : Bool) : restoreStatus (pushedStatus p b) = p :=
  (flagsOfByte_pushedStatus p b).restoreStatus_eq

/-- Settles O13: the bits of both bytes are read off flag by flag, B and U standing for bits 4 and 5. -/
theorem statusBytesCarryTheSixFlags : Obligations.StatusBytesCarryTheSixFlags := by
  unfold Obligations.StatusBytesCarryTheSixFlags
  intro p b v
  exact ⟨flagsOfByte_toByte p, p.toByte_getLsbD_bit .b, p.toByte_getLsbD_bit .u,
    flagsOfByte_pushedStatus p b, pushedStatus_getLsbD_bit p b .b, pushedStatus_getLsbD_bit p b .u,
    ⟨rfl, rfl, rfl, rfl, rfl, rfl⟩, restoreStatus_pushedStatus p b⟩

/-! ## SetFlag and GetFlag (R31) -/

/-- GetFlag tests the bit of the flag's mask. -/
theorem Flags.getFlag_iff_mask (p : Flags) (f : FlagName) : p.getFlag f = true ↔ p.toByte &&& f.mask ≠ 0 := by
  rw [f.mask_eq_twoPow, BitVec.and_twoPow, p.toByte_getLsbD_bit]
  cases f <;> simp [FlagName.bit, BitVec.twoPow]

/-- SetFlag writes the named flag if it is stored, and no other. -/
theorem Flags.getFlag_setFlag (p : Flags) (f g : FlagName) (b : Bool) :
    (p.setFlag f b).getFlag g = if g = f ∧ f ∈ storedFlags then b else p.getFlag g := by
  cases f <;> cases g <;> rfl

theorem Flags.getFlag_setFlag_of_ne (p : Flags) {f g : FlagName} (b : Bool) (h : g ≠ f) :
    (p.setFlag f b).getFlag g = p.getFlag g := by
  rw [Flags.getFlag_setFlag, if_neg (fun hg => h hg.1)]

theorem Flags.getFlag_setFlag_of_notMem (p : Flags) {f g : FlagName} (b : Bool) (h : g ∉ [f]) :
    (p.setFlag f b).getFlag g = p.getFlag g :=
  p.getFlag_setFlag_of_ne b (mt List.mem_singleton.2 h)

theorem Flags.eq_of_getFlag {p q : Flags} (h : ∀ f, p.getFlag f = q.getFlag f) : p = q := by
  obtain ⟨n, v, d, i, z, c⟩ := p
  obtain rfl : n = q.n := h .n
  obtain rfl : v = q.v := h .v
  obtain rfl : d = q.d := h .d
  obtain rfl : i = q.i := h .i
  obtain rfl : z = q.z := h .z
  obtain rfl : c = q.c := h .c
  rfl

/-- Settles O14: by the one law of GetFlag after SetFlag. -/
theorem hostFlagInterface : Obligations.HostFlagInterface := by
  unfold Obligations.HostFlagInterface
  intro p f b
  refine ⟨p.getFlag_iff_mask f, fun g hg => p.getFlag_setFlag_of_ne b hg, fun hf => ?_, fun hf => ?_⟩
  · rw [Flags.getFlag_setFlag, if_pos ⟨rfl, hf⟩]
  · exact Flags.eq_of_getFlag fun g => by rw [Flags.getFlag_setFlag, if_neg (fun hg => hf hg.2)]

/-! ## Reset (R38) -/

theorem Flags.reset_toByte : Flags.reset.toByte = 0x24 := by decide

/-- Settles O48: Reset's fields, and R54's pair at the reset vector. -/
theorem resetLoadsTheVectorAndTheStatedValues : Obligations.ResetLoadsTheVectorAndTheStatedValues := by
  unfold Obligations.ResetLoadsTheVectorAndTheStatedValues
  intro s
  have hpc : s.hostReset.pc.toNat = 256 * (s.read 0xFFFD).toNat + (s.read 0xFFFC).toNat := joinBytes_toNat _ _
  exact ⟨rfl, rfl, rfl, rfl, Flags.reset_toByte, hpc, rfl, rfl, rfl, rfl⟩

/-- Settles O49: an empty image leaves memory without a listed byte. -/
theorem resetStateIsResetOfAnEmptyMachine : Obligations.ResetStateIsResetOfAnEmptyMachine := by
  unfold Obligations.ResetStateIsResetOfAnEmptyMachine
  have hreset : ((construct []).setIrq false).hostReset = State.reset := reset_eq_hostReset rfl rfl
  exact ⟨hreset.symm, Flags.reset_toByte, rfl, rfl, fun _ => rfl⟩

/-- Settles O52: an image is loaded by writes, which keep the canonical form. -/
theorem resetAndConstructMeetTheInvariant : Obligations.ResetAndConstructMeetTheInvariant := by
  unfold Obligations.ResetAndConstructMeetTheInvariant
  exact ⟨⟨rfl, rfl⟩, fun image => ⟨Memory.wf_ofImage image, rfl⟩⟩

/-! ## What the flag computations leave unchanged (10_state.md, the flag-writers table) -/

section FlagComputations

variable (p : Flags) (a m v : Byte) {f : FlagName}

theorem getFlag_setNZ (hf : f ∉ [FlagName.n, .z]) : (p.setNZ v).getFlag f = p.getFlag f := by
  cases f <;> simp at hf <;> rfl

theorem getFlag_addFlags (hf : f ∉ [FlagName.n, .v, .z, .c]) : (addFlags p a m).2.getFlag f = p.getFlag f := by
  cases f <;> simp at hf <;> rfl

theorem getFlag_subFlags (hf : f ∉ [FlagName.n, .v, .z, .c]) : (subFlags p a m).2.getFlag f = p.getFlag f := by
  cases f <;> simp at hf <;> rfl

theorem getFlag_bitFlags (hf : f ∉ [FlagName.n, .v, .z]) : (bitFlags p a m).getFlag f = p.getFlag f := by
  cases f <;> simp at hf <;> rfl

theorem getFlag_compareFlags (hf : f ∉ [FlagName.n, .z, .c]) : (compareFlags p a m).getFlag f = p.getFlag f := by
  cases f <;> simp at hf <;> rfl

/-- Each of the four shifts sets C from the old value and then N and Z of the result. -/
theorem getFlag_shiftFlags (b : Bool) (hf : f ∉ [FlagName.n, .z, .c]) :
    ((p.setFlag .c b).setNZ v).getFlag f = p.getFlag f := by
  cases f <;> simp at hf <;> rfl

/-- R26, R29: all six stored flags come from the byte. -/
theorem getFlag_restoreStatus (hf : f ∉ [FlagName.n, .v, .d, .i, .z, .c]) :
    (restoreStatus v).getFlag f = p.getFlag f := by
  cases f <;> simp at hf <;> rfl

end FlagComputations

/-! ## The frame of each update of the state -/

section Frames

variable {s t : State} {regs : List Reg} {flags : List FlagName} {stored : List Addr} {r : Reg} {v : Byte} {c : Addr}

theorem State.reg_setA (h : r ≠ .a) : (s.setA v).reg r = s.reg r := by
  cases r with
  | a => exact absurd rfl h
  | x | y | sp | pc => rfl

theorem State.reg_setX (h : r ≠ .x) : (s.setX v).reg r = s.reg r := by
  cases r with
  | x => exact absurd rfl h
  | a | y | sp | pc => rfl

theorem State.reg_setY (h : r ≠ .y) : (s.setY v).reg r = s.reg r := by
  cases r with
  | y => exact absurd rfl h
  | a | x | sp | pc => rfl

theorem State.reg_setSp (h : r ≠ .sp) : (s.setSp v).reg r = s.reg r := by
  cases r with
  | sp => exact absurd rfl h
  | a | x | y | pc => rfl

theorem State.reg_setPc (h : r ≠ .pc) : (s.setPc c).reg r = s.reg r := by
  cases r with
  | pc => exact absurd rfl h
  | a | x | y | sp => rfl

theorem Frame.refl (s : State) : Frame s s regs flags stored :=
  ⟨fun _ _ => rfl, fun _ _ => rfl, fun _ _ => rfl, rfl, rfl, rfl⟩

/-- A frame may list more than was written. -/
theorem Frame.mono {regs' : List Reg} {flags' : List FlagName} {stored' : List Addr} (h : Frame s t regs flags stored)
    (hr : regs ⊆ regs') (hf : flags ⊆ flags') (hb : stored ⊆ stored') : Frame s t regs' flags' stored' := by
  obtain ⟨hreg, hflag, hread, hrest⟩ := h
  exact ⟨fun r hr' => hreg r (mt (@hr r) hr'), fun f hf' => hflag f (mt (@hf f) hf'),
    fun b hb' => hread b (mt (@hb b) hb'), hrest⟩

theorem Frame.setA (h : Frame s t regs flags stored) (ha : Reg.a ∈ regs := by simp [Instr.writesRegs]) :
    Frame s (t.setA v) regs flags stored :=
  ⟨fun r hr => (State.reg_setA (ne_of_mem_of_not_mem ha hr).symm).trans (h.1 r hr), h.2⟩

theorem Frame.setX (h : Frame s t regs flags stored) (hx : Reg.x ∈ regs := by simp [Instr.writesRegs]) :
    Frame s (t.setX v) regs flags stored :=
  ⟨fun r hr => (State.reg_setX (ne_of_mem_of_not_mem hx hr).symm).trans (h.1 r hr), h.2⟩

theorem Frame.setY (h : Frame s t regs flags stored) (hy : Reg.y ∈ regs := by simp [Instr.writesRegs]) :
    Frame s (t.setY v) regs flags stored :=
  ⟨fun r hr => (State.reg_setY (ne_of_mem_of_not_mem hy hr).symm).trans (h.1 r hr), h.2⟩

theorem Frame.setSp (h : Frame s t regs flags stored) (hsp : Reg.sp ∈ regs := by simp [Instr.writesRegs]) :
    Frame s (t.setSp v) regs flags stored :=
  ⟨fun r hr => (State.reg_setSp (ne_of_mem_of_not_mem hsp hr).symm).trans (h.1 r hr), h.2⟩

theorem Frame.setPc (h : Frame s t regs flags stored) (hpc : Reg.pc ∈ regs := by simp [Instr.writesRegs]) :
    Frame s (t.setPc c) regs flags stored :=
  ⟨fun r hr => (State.reg_setPc (ne_of_mem_of_not_mem hpc hr).symm).trans (h.1 r hr), h.2⟩

/-- The new flags are compared with those of before the instruction, not of before this update. -/
theorem Frame.setP {q : Flags} (h : Frame s t regs flags stored)
    (hq : ∀ {f}, f ∉ flags → q.getFlag f = s.p.getFlag f) : Frame s (t.setP q) regs flags stored := by
  obtain ⟨hreg, -, hrest⟩ := h
  exact ⟨hreg, fun _ hf => hq hf, hrest⟩

theorem Frame.write (h : Frame s t regs flags stored) (hc : c ∈ stored) :
    Frame s (t.write c v) regs flags stored := by
  obtain ⟨hreg, hflag, hread, hrest⟩ := h
  refine ⟨hreg, hflag, fun b hb => ?_, hrest⟩
  rw [State.read_write_of_ne t v (ne_of_mem_of_not_mem hc hb).symm, hread b hb]

theorem Frame.push (h : Frame s t regs flags stored) (hc : stackAddr t.sp ∈ stored)
    (hsp : Reg.sp ∈ regs := by simp [Instr.writesRegs]) : Frame s (t.push v) regs flags stored :=
  (h.write hc).setSp hsp

theorem Frame.afterPull (h : Frame s t regs flags stored) (hsp : Reg.sp ∈ regs := by simp [Instr.writesRegs]) :
    Frame s t.afterPull regs flags stored :=
  h.setSp hsp

end Frames

/-! ## The frame of each shared operation -/

section Operations

variable (s : State)

/-- R230 to R236: a flag instruction writes its flag alone. -/
theorem setFlag_frame (f : FlagName) (b : Bool) : Frame s (s.setP (s.p.setFlag f b)) [] [f] [] :=
  (Frame.refl s).setP (s.p.getFlag_setFlag_of_notMem b)

/-- R180: a branch writes PC alone. -/
theorem branchIf_frame (cond : Bool) (d : Byte) : Frame s (branchIf cond d s) [.pc] [] [] := by
  rw [branchIf_eq]
  exact (Frame.refl s).setPc

/-- R117 on memory. -/
theorem modifyMemory_frame (m : MemOperand) {f : Flags → Byte → Byte × Flags} {flags : List FlagName}
    (hf : ∀ p v {g}, g ∉ flags → (f p v).2.getFlag g = p.getFlag g) :
    Frame s (modifyMemory m f s) [] flags [resolve m s] :=
  ((Frame.refl s).write (List.mem_singleton.2 rfl)).setP (hf _ _)

/-- R117 on the accumulator. -/
theorem modify_acc_frame {f : Flags → Byte → Byte × Flags} {flags : List FlagName}
    (hf : ∀ p v {g}, g ∉ flags → (f p v).2.getFlag g = p.getFlag g) :
    Frame s (modify .acc f s) [.a] flags [] :=
  (Frame.refl s).setA.setP (hf _ _)

/-- R241, R263: a return address is pushed high byte first. -/
theorem pushReturn_frame (ret : Addr) : Frame s ((s.push (hiByte ret)).push (loByte ret)) [.sp] []
    [stackAddr s.sp, stackAddr (s.sp - 1)] :=
  ((Frame.refl s).push (by simp)).push (by simp)

/-- R263: interrupt entry writes SP, PC, I and three bytes of the stack. -/
theorem enter_frame (ret vec : Addr) (b : Bool) :
    Frame s (s.enter ret vec b) [.sp, .pc] [.i] [stackAddr s.sp, stackAddr (s.sp - 1), stackAddr (s.sp - 2)] := by
  have hsp : ((s.push (hiByte ret)).push (loByte ret)).sp = s.sp - 2 := by rw [State.push_sp, State.push_sp]; bv_omega
  have hret := (pushReturn_frame s ret).mono (regs' := [.sp, .pc]) (flags' := [.i])
    (stored' := [stackAddr s.sp, stackAddr (s.sp - 1), stackAddr (s.sp - 2)]) (by simp) (by simp) (by simp)
  have hstatus := hret.push (v := pushedStatus s.p b) (by rw [hsp]; simp)
  exact (hstatus.setP (s.p.getFlag_setFlag_of_notMem true)).setPc

/-- R244: RTI writes SP, PC and the six flags. -/
theorem returnFromInterrupt_frame :
    Frame s s.returnFromInterrupt [.sp, .pc] [.n, .v, .d, .i, .z, .c] [] :=
  ((Frame.refl s).afterPull.setP (getFlag_restoreStatus _ _)).afterPull.afterPull.setPc

end Operations

end Sys2Proof.Machine

namespace Sys2Proof

open Machine

/-- The bytes of memory that an instruction stores, in the state its meaning is given. -/
def Instr.storedAt (i : Instr) (s : State) : List Addr :=
  match i with
  | .sta m | .stx m | .sty m | .inc m | .dec m => [resolve m s]
  | .asl (.mem m) | .lsr (.mem m) | .rol (.mem m) | .ror (.mem m) => [resolve m s]
  | .pha | .php => [stackAddr s.sp]
  | .jsr _ => [stackAddr s.sp, stackAddr (s.sp - 1)]
  | .brk => [stackAddr s.sp, stackAddr (s.sp - 1), stackAddr (s.sp - 2)]
  | _ => []

end Sys2Proof

namespace Sys2Proof.Machine

/-! ## The frame of each instruction -/

/-- Every legal instruction answers a next state and keeps the frame of its written registers, flags and bytes. -/
theorem exec_frame (s : State) : ∀ i : Instr, (∀ op, i ≠ .illegal op) →
    ∃ t, exec i s = .next t ∧ Frame s t i.writesRegs i.writesFlags (i.storedAt s)
  | .lda src, _ => ⟨_, exec_lda s src, (Frame.refl s).setA.setP (getFlag_setNZ _ _)⟩
  | .ldx src, _ => ⟨_, exec_ldx s src, (Frame.refl s).setX.setP (getFlag_setNZ _ _)⟩
  | .ldy src, _ => ⟨_, exec_ldy s src, (Frame.refl s).setY.setP (getFlag_setNZ _ _)⟩
  | .sta dst, _ => ⟨_, exec_sta s dst, (Frame.refl s).write (List.mem_singleton.2 rfl)⟩
  | .stx dst, _ => ⟨_, exec_stx s dst, (Frame.refl s).write (List.mem_singleton.2 rfl)⟩
  | .sty dst, _ => ⟨_, exec_sty s dst, (Frame.refl s).write (List.mem_singleton.2 rfl)⟩
  | .adc src, _ => ⟨_, exec_adc s src, (Frame.refl s).setA.setP (getFlag_addFlags _ _ _)⟩
  | .sbc src, _ => ⟨_, exec_sbc s src, (Frame.refl s).setA.setP (getFlag_subFlags _ _ _)⟩
  | .and src, _ => ⟨_, exec_and s src, (Frame.refl s).setA.setP (getFlag_setNZ _ _)⟩
  | .ora src, _ => ⟨_, exec_ora s src, (Frame.refl s).setA.setP (getFlag_setNZ _ _)⟩
  | .eor src, _ => ⟨_, exec_eor s src, (Frame.refl s).setA.setP (getFlag_setNZ _ _)⟩
  | .bit src, _ => ⟨_, exec_bit s src, (Frame.refl s).setP (getFlag_bitFlags _ _ _)⟩
  | .asl .acc, _ => ⟨_, exec_asl s .acc, modify_acc_frame s fun p _ => getFlag_shiftFlags p _ _⟩
  | .lsr .acc, _ => ⟨_, exec_lsr s .acc, modify_acc_frame s fun p _ => getFlag_shiftFlags p _ _⟩
  | .rol .acc, _ => ⟨_, exec_rol s .acc, modify_acc_frame s fun p _ => getFlag_shiftFlags p _ _⟩
  | .ror .acc, _ => ⟨_, exec_ror s .acc, modify_acc_frame s fun p _ => getFlag_shiftFlags p _ _⟩
  | .asl (.mem m), _ => ⟨_, exec_asl s (.mem m), modifyMemory_frame s m fun p _ => getFlag_shiftFlags p _ _⟩
  | .lsr (.mem m), _ => ⟨_, exec_lsr s (.mem m), modifyMemory_frame s m fun p _ => getFlag_shiftFlags p _ _⟩
  | .rol (.mem m), _ => ⟨_, exec_rol s (.mem m), modifyMemory_frame s m fun p _ => getFlag_shiftFlags p _ _⟩
  | .ror (.mem m), _ => ⟨_, exec_ror s (.mem m), modifyMemory_frame s m fun p _ => getFlag_shiftFlags p _ _⟩
  | .cmp src, _ => ⟨_, exec_cmp s src, (Frame.refl s).setP (getFlag_compareFlags _ _ _)⟩
  | .cpx src, _ => ⟨_, exec_cpx s src, (Frame.refl s).setP (getFlag_compareFlags _ _ _)⟩
  | .cpy src, _ => ⟨_, exec_cpy s src, (Frame.refl s).setP (getFlag_compareFlags _ _ _)⟩
  | .bcc d, _ => ⟨_, exec_bcc s d, branchIf_frame s _ d⟩
  | .bcs d, _ => ⟨_, exec_bcs s d, branchIf_frame s _ d⟩
  | .beq d, _ => ⟨_, exec_beq s d, branchIf_frame s _ d⟩
  | .bne d, _ => ⟨_, exec_bne s d, branchIf_frame s _ d⟩
  | .bmi d, _ => ⟨_, exec_bmi s d, branchIf_frame s _ d⟩
  | .bpl d, _ => ⟨_, exec_bpl s d, branchIf_frame s _ d⟩
  | .bvc d, _ => ⟨_, exec_bvc s d, branchIf_frame s _ d⟩
  | .bvs d, _ => ⟨_, exec_bvs s d, branchIf_frame s _ d⟩
  | .pha, _ => ⟨_, exec_pha s, (Frame.refl s).push (List.mem_singleton.2 rfl)⟩
  | .pla, _ => ⟨_, exec_pla s, (Frame.refl s).afterPull.setA.setP (getFlag_setNZ _ _)⟩
  | .plp, _ => ⟨_, exec_plp s, (Frame.refl s).afterPull.setP (getFlag_restoreStatus _ _)⟩
  | .php, _ => ⟨_, exec_php s, (Frame.refl s).push (List.mem_singleton.2 rfl)⟩
  | .tax, _ => ⟨_, exec_tax s, (Frame.refl s).setX.setP (getFlag_setNZ _ _)⟩
  | .tay, _ => ⟨_, exec_tay s, (Frame.refl s).setY.setP (getFlag_setNZ _ _)⟩
  | .tsx, _ => ⟨_, exec_tsx s, (Frame.refl s).setX.setP (getFlag_setNZ _ _)⟩
  | .txa, _ => ⟨_, exec_txa s, (Frame.refl s).setA.setP (getFlag_setNZ _ _)⟩
  | .tya, _ => ⟨_, exec_tya s, (Frame.refl s).setA.setP (getFlag_setNZ _ _)⟩
  | .txs, _ => ⟨_, exec_txs s, (Frame.refl s).setSp⟩
  | .inx, _ => ⟨_, exec_inx s, (Frame.refl s).setX.setP (getFlag_setNZ _ _)⟩
  | .iny, _ => ⟨_, exec_iny s, (Frame.refl s).setY.setP (getFlag_setNZ _ _)⟩
  | .dex, _ => ⟨_, exec_dex s, (Frame.refl s).setX.setP (getFlag_setNZ _ _)⟩
  | .dey, _ => ⟨_, exec_dey s, (Frame.refl s).setY.setP (getFlag_setNZ _ _)⟩
  | .inc dst, _ => ⟨_, exec_inc s dst, modifyMemory_frame s dst fun p _ => getFlag_setNZ p _⟩
  | .dec dst, _ => ⟨_, exec_dec s dst, modifyMemory_frame s dst fun p _ => getFlag_setNZ p _⟩
  | .clc, _ => ⟨_, exec_clc s, setFlag_frame s .c false⟩
  | .sec, _ => ⟨_, exec_sec s, setFlag_frame s .c true⟩
  | .cli, _ => ⟨_, exec_cli s, setFlag_frame s .i false⟩
  | .sei, _ => ⟨_, exec_sei s, setFlag_frame s .i true⟩
  | .cld, _ => ⟨_, exec_cld s, setFlag_frame s .d false⟩
  | .sed, _ => ⟨_, exec_sed s, setFlag_frame s .d true⟩
  | .clv, _ => ⟨_, exec_clv s, setFlag_frame s .v false⟩
  | .jmp tgt, _ => ⟨_, exec_jmp s tgt, (Frame.refl s).setPc⟩
  | .jsr tgt, _ => ⟨_, exec_jsr s tgt,
      ((pushReturn_frame s _).mono (regs' := [.sp, .pc]) (by simp) (List.Subset.refl _) (List.Subset.refl _)).setPc⟩
  | .rts, _ => ⟨_, exec_rts s, (Frame.refl s).afterPull.afterPull.setPc⟩
  | .brk, _ => ⟨_, exec_brk s, enter_frame s _ _ _⟩
  | .rti, _ => ⟨_, exec_rti s, returnFromInterrupt_frame s⟩
  | .nop, _ => ⟨_, exec_nop s, Frame.refl s⟩
  | .illegal op, h => absurd rfl (h op)

/-- What a next state of a meaning is: the trap of R251, or a state in the instruction's frame. -/
theorem exec_cases {i : Instr} {s t : State} (h : exec i s = .next t) :
    (∃ op, i = .illegal op ∧ t = s.raiseIllegal op (s.pc - 1)) ∨
      Frame s t i.writesRegs i.writesFlags (i.storedAt s) := by
  by_cases hi : ∃ op, i = .illegal op
  · obtain ⟨op, rfl⟩ := hi
    rw [exec_illegal] at h
    injection h with h
    exact .inl ⟨op, rfl, h.symm⟩
  · obtain ⟨u, hu, hframe⟩ := exec_frame s i (not_exists.1 hi)
    rw [hu] at h
    injection h with h
    exact .inr (h ▸ hframe)

/-- Every meaning answers a next state. -/
theorem exec_completes (i : Instr) (s : State) : ∃ t, exec i s = .next t := by
  by_cases hi : ∃ op, i = .illegal op
  · obtain ⟨op, rfl⟩ := hi
    exact ⟨_, exec_illegal s op⟩
  · obtain ⟨t, ht, -⟩ := exec_frame s i (not_exists.1 hi)
    exact ⟨t, ht⟩

/-- Settles O56: the flags and inputs of the instruction's frame; the trap writes the run state alone. -/
theorem noFlagOutsideTheWritersTableChanges : Obligations.NoFlagOutsideTheWritersTableChanges := by
  unfold Obligations.NoFlagOutsideTheWritersTableChanges
  intro i s t h
  obtain ⟨op, rfl, rfl⟩ | ⟨-, hflag, -, hnmi, hirq, -⟩ := exec_cases h
  · exact ⟨fun _ _ => rfl, rfl, rfl⟩
  · exact ⟨hflag, hirq, hnmi⟩

/-- Settles O57: the registers of the instruction's frame; the trap writes the run state alone. -/
theorem noRegisterOutsideItsWritersChanges : Obligations.NoRegisterOutsideItsWritersChanges := by
  unfold Obligations.NoRegisterOutsideItsWritersChanges
  intro i s t h
  obtain ⟨op, rfl, rfl⟩ | ⟨hreg, -⟩ := exec_cases h
  · exact fun _ _ => rfl
  · exact hreg

/-! ## PC's advance and the interrupt inputs -/

/-- Settles O59: the meaning is given PC past the instruction's bytes, and leaves PC there (O57). -/
theorem pcAdvancesByTheInstructionLength : Obligations.PcAdvancesByTheInstructionLength := by
  unfold Obligations.PcAdvancesByTheInstructionLength
  intro s hready hpc
  obtain ⟨t, ht⟩ := exec_completes s.fetched (s.pastInstr s.fetched)
  have hkept : t.pc.toNat = (s.pastInstr s.fetched).pc.toNat :=
    noRegisterOutsideItsWritersChanges _ _ _ ht .pc hpc
  refine ⟨t, (step_ready hready).trans ht, ?_⟩
  rw [hkept, State.pastInstr_pc, BitVec.toNat_add, BitVec.toNat_ofNat, Nat.add_mod_mod]

/-- R200: the stack lies below 0x0200. -/
theorem ne_stackAddr_of_le {a : Addr} (h : 0x0200 ≤ a.toNat) (sp : Byte) : a ≠ stackAddr sp := by
  rintro rfl
  have := sp.isLt
  rw [stackAddr_toNat] at h
  omega

/-- Interrupt entry leaves every byte outside the stack page as it was. -/
theorem State.enter_read_of_le (s : State) (ret vec : Addr) (b : Bool) {a : Addr} (h : 0x0200 ≤ a.toNat) :
    (s.enter ret vec b).read a = s.read a := by
  rw [State.enter_read, if_neg (ne_stackAddr_of_le h _), if_neg (ne_stackAddr_of_le h _),
    if_neg (ne_stackAddr_of_le h _)]

/-- R263: interrupt entry through a vector that lies outside the stack page, as all of R57's do. -/
theorem entered_enter (s : State) (ret vec : Addr) (b : Bool) (hlo : 0x0200 ≤ vec.toNat)
    (hhi : 0x0200 ≤ (vec + 1).toNat) : Entered s (s.enter ret vec b) ret vec b := by
  obtain ⟨hreg, hflag, hread, -, hirq, hrun⟩ := enter_frame s ret vec b
  have h2 : s.sp - 2 = s.sp - 1 - 1 := by bv_omega
  have h01 : s.sp ≠ s.sp - 1 := by bv_omega
  have h02 : s.sp ≠ s.sp - 1 - 1 := by bv_omega
  have h12 : s.sp - 1 ≠ s.sp - 1 - 1 := by bv_omega
  refine ⟨?_, ?_, ?_, ?_, ?_, ?_, fun r hsp hpc => hreg r (by simp [hsp, hpc]), fun f hi => hflag f (by simp [hi]),
    hread, hirq, hrun⟩
  · rw [State.enter_read, if_neg (mt stackAddr_inj.1 h02), if_neg (mt stackAddr_inj.1 h01), if_pos rfl]
  · rw [State.enter_read, if_neg (mt stackAddr_inj.1 h12), if_pos rfl]
  · rw [State.enter_read, h2, if_pos rfl]
  · rw [State.enter_sp]; bv_omega
  · rw [State.enter_p]
  · rw [State.enter_pc, joinBytes_toNat, State.enter_read_of_le s ret vec b hlo, State.enter_read_of_le s ret vec b hhi]

/-- R261, R263: the NMI is entered through 0xFFFA. -/
theorem entered_enterNmi (s : State) : Entered s s.enterNmi s.pc 0xFFFA false :=
  entered_enter (s.setNmi false) s.pc Config.nmiVector false (by decide) (by decide)

/-- Settles O60: by what a step can do; an instruction keeps both inputs (O56), and runs only when no NMI is latched. -/
theorem stepLeavesTheInterruptInputs : Obligations.StepLeavesTheInterruptInputs := by
  unfold Obligations.StepLeavesTheInterruptInputs
  intro s t h
  obtain ⟨-, ⟨-, rfl⟩ | ⟨hnmi, -, -, rfl⟩ | ⟨⟨-, hnmi, -⟩, hexec⟩⟩ := step_cases h
  · exact ⟨State.enter_irqLine .., State.enter_nmiPending .., fun _ => entered_enterNmi s⟩
  · exact ⟨State.enter_irqLine .., (State.enter_nmiPending ..).trans hnmi, fun hset => by simp [hnmi] at hset⟩
  · obtain ⟨-, hirq, hkept⟩ := noFlagOutsideTheWritersTableChanges _ _ _ hexec
    exact ⟨hirq, hkept.trans hnmi, fun hset => by simp [hnmi] at hset⟩

end Sys2Proof.Machine
end

section
/-! PROOFS. The statements of 20_memory.md: one write, the canonical form, the host's image, the fetch of stored bytes,
and the bus writes as the whole change of memory. -/

namespace Sys2Proof.Machine

/-! ## One write (R52) -/

/-- Settles O15: R52's law of a read after a write, and the frame of a write. -/
theorem writeSetsOneByteOnly : Obligations.WriteSetsOneByteOnly := by
  unfold Obligations.WriteSetsOneByteOnly
  exact fun s a v => ⟨s.read_write_self a v, (Frame.refl s).write (List.mem_singleton.2 rfl)⟩

/-! ## The canonical form (log entry 2) -/

/-- A canonical memory differs, at the first address it lists, from every canonical memory that begins above it. -/
theorem Memory.read_head_ne {lo k : Nat} {v : Byte} {m n : Memory} (hm : Memory.wfFrom lo ((k, v) :: m) = true)
    (hn : Memory.wfFrom (k + 1) n = true) : Memory.read ((k, v) :: m) k ≠ n.read k := by
  obtain ⟨-, -, hv, -⟩ := (Memory.wfFrom_cons ..).1 hm
  rwa [Memory.read_cons, if_pos rfl, Memory.read_below hn k.lt_succ_self]

/-- Canonical memories are told apart by their bytes. The first addresses agree, because the lower of two different ones
would read differently (`Memory.read_head_ne`); below its own first address each tail lists nothing. -/
theorem Memory.eq_of_wfFrom_of_read {lo : Nat} {m n : Memory} (hm : Memory.wfFrom lo m = true)
    (hn : Memory.wfFrom lo n = true) (h : ∀ a < Config.memSize, m.read a = n.read a) : m = n := by
  induction m generalizing lo n with
  | nil =>
    cases n with
    | nil => rfl
    | cons d n =>
      obtain ⟨-, hj, -, -⟩ := (Memory.wfFrom_cons ..).1 hn
      exact absurd (h _ hj).symm (Memory.read_head_ne hn rfl)
  | cons c m ih =>
    obtain ⟨k, v⟩ := c
    obtain ⟨-, hk, hv, hm'⟩ := (Memory.wfFrom_cons ..).1 hm
    cases n with
    | nil => exact absurd (h k hk) (Memory.read_head_ne hm rfl)
    | cons d n =>
      obtain ⟨j, w⟩ := d
      obtain ⟨-, hj, hw, hn'⟩ := (Memory.wfFrom_cons ..).1 hn
      obtain hlt | rfl | hgt := Nat.lt_trichotomy k j
      · exact absurd (h k hk) (Memory.read_head_ne hm ((Memory.wfFrom_cons ..).2 ⟨hlt, hj, hw, hn'⟩))
      · have hvw : v = w := by simpa [Memory.read_cons] using h k hk
        have htail : ∀ a < Config.memSize, Memory.read m a = Memory.read n a := by
          intro a ha
          by_cases hka : k = a
          · rw [Memory.read_below hm' (by omega), Memory.read_below hn' (by omega)]
          · simpa [Memory.read_cons, hka] using h a ha
        rw [hvw, ih hm' hn' htail]
      · exact absurd (h j hj).symm (Memory.read_head_ne hn ((Memory.wfFrom_cons ..).2 ⟨hgt, hk, hv, hm'⟩))

/-- Settles O16: every address below the memory's size is a 16-bit address. -/
theorem canonicalMemoriesThatReadAlikeAreEqual : Obligations.CanonicalMemoriesThatReadAlikeAreEqual := by
  unfold Obligations.CanonicalMemoriesThatReadAlikeAreEqual
  intro m n hm hn h
  refine Memory.eq_of_wfFrom_of_read hm hn fun a ha => ?_
  have hmod : (BitVec.ofNat 16 a).toNat = a := Nat.mod_eq_of_lt ha
  simpa only [hmod] using h (BitVec.ofNat 16 a)

/-! ## The host's image (R67) -/

/-- Loading an image leaves a byte that it does not list. -/
theorem Memory.read_foldl_write_of_notMem {image : List (Addr × Byte)} {a : Addr} (h : a ∉ image.map Prod.fst)
    (m : Memory) : (image.foldl (fun m c => m.write c.1.toNat c.2) m).read a.toNat = m.read a.toNat := by
  induction image generalizing m with
  | nil => rfl
  | cons c image ih =>
    obtain ⟨hne, hrest⟩ := not_or.1 (mt List.mem_cons.2 h)
    rw [List.foldl_cons, ih hrest, Memory.read_write, if_neg (mt BitVec.toNat_inj.1 hne)]

/-- Loading an image that lists no address twice leaves each of its bytes in place: no later write is to its address. -/
theorem Memory.read_foldl_write_of_mem {image : List (Addr × Byte)} (hnd : (image.map Prod.fst).Nodup)
    {c : Addr × Byte} (hc : c ∈ image) (m : Memory) :
    (image.foldl (fun m c => m.write c.1.toNat c.2) m).read c.1.toNat = c.2 := by
  induction image generalizing m with
  | nil => cases hc
  | cons d image ih =>
    obtain ⟨hd, hnd'⟩ := List.nodup_cons.1 hnd
    rw [List.foldl_cons]
    cases hc with
    | head => rw [Memory.read_foldl_write_of_notMem hd, Memory.read_write, if_pos rfl]
    | tail _ hc' => exact ih hnd' hc' _

/-- Settles O17: construction loads the image into an empty memory, and Reset keeps memory. -/
theorem imageBytesReadBack : Obligations.ImageBytesReadBack := by
  unfold Obligations.ImageBytesReadBack
  intro image hnd
  have hread : ∀ c ∈ image, (construct image).read c.1 = c.2 :=
    fun c hc => Memory.read_foldl_write_of_mem hnd hc []
  exact ⟨fun c hc => ⟨hread c hc, (State.hostReset_read _ _).trans (hread c hc)⟩,
    fun a ha => Memory.read_foldl_write_of_notMem ha []⟩

/-! ## Fetching what was stored (R55, R65) -/

/-- The fetch after three stores at PC is the form's instruction of the three bytes: the addresses PC, PC + 1 and PC + 2
mod 2^16 are different ones. -/
theorem fetched_write_pc (s : State) (op b1 b2 : Byte) :
    (((s.write s.pc op).write (s.pc + 1) b1).write (s.pc + 2) b2).fetched = (opForm op).build op b1 b2 := by
  have h01 : s.pc ≠ s.pc + 1 := by bv_omega
  have h02 : s.pc ≠ s.pc + 2 := by bv_omega
  have h12 : s.pc + 1 ≠ s.pc + 2 := by bv_omega
  simp only [State.fetched, State.write_pc, State.read_write_self, State.read_write_of_ne _ _ h01,
    State.read_write_of_ne _ _ h02, State.read_write_of_ne _ _ h12]

/-- Settles O18: three bytes decode to their form's instruction, which is also what is fetched. -/
theorem fetchSeesWhatWasStored : Obligations.FetchSeesWhatWasStored := by
  unfold Obligations.FetchSeesWhatWasStored
  intro s op b1 b2 i rest h
  rw [decode_build] at h
  injection h with h
  rw [fetched_write_pc, (Prod.mk.inj h).1]

/-! ## The bus writes are the change of memory (R61, R119) -/

section BusWrites

variable (s : State)

/-- Reads leave memory as it is. -/
theorem foldl_apply_map_read {α : Type} (l : List α) (f : α → Addr) (m : Memory) :
    (l.map fun k => Access.read (f k)).foldl Access.apply m = m := by
  induction l with
  | nil => rfl
  | cons _ _ ih => exact ih

@[simp] theorem foldl_apply_fetchAccesses (i : Instr) (pc : Addr) (m : Memory) :
    (fetchAccesses i pc).foldl Access.apply m = m :=
  foldl_apply_map_read _ _ m

@[simp] theorem foldl_apply_resolveReads (o : MemOperand) (m : Memory) :
    (resolveReads o s).foldl Access.apply m = m := by
  cases o <;> rfl

@[simp] theorem foldl_apply_sourceReads (src : Source) (m : Memory) :
    (sourceReads src s).foldl Access.apply m = m := by
  cases src with
  | imm _ => rfl
  | mem o => rw [sourceReads, List.foldl_append, foldl_apply_resolveReads]; rfl

theorem store_mem_eq (o : MemOperand) (v : Byte) :
    (store o v s).mem = (storeAccesses o v s).foldl Access.apply s.mem := by
  rw [storeAccesses, List.foldl_append, foldl_apply_resolveReads]; rfl

theorem modifyMemory_mem_eq (o : MemOperand) (f : Flags → Byte → Byte × Flags) :
    (modifyMemory o f s).mem = (modifyMemoryAccesses o f s).foldl Access.apply s.mem := by
  rw [modifyMemoryAccesses, List.foldl_append, foldl_apply_resolveReads]; rfl

theorem modify_mem_eq (tgt : Target) (f : Flags → Byte → Byte × Flags) :
    (modify tgt f s).mem = (modifyAccesses tgt f s).foldl Access.apply s.mem := by
  cases tgt with
  | acc => rfl
  | mem o => exact modifyMemory_mem_eq s o f

/-- R263: interrupt entry's three pushes. -/
theorem enter_mem_eq (ret vec : Addr) (b : Bool) :
    (s.enter ret vec b).mem = (enterAccesses s ret vec b).foldl Access.apply s.mem := by
  have hsp : s.sp - 2 = s.sp - 1 - 1 := by bv_omega
  rw [enterAccesses, hsp]; rfl

/-- Every meaning answers a state whose memory is that of the instruction's bus writes. -/
theorem exec_mem_eq : ∀ i : Instr, ∃ t, exec i s = .next t ∧ t.mem = (dataAccesses i s).foldl Access.apply s.mem
  | .lda src | .ldx src | .ldy src | .adc src | .sbc src | .and src | .ora src | .eor src | .bit src
  | .cmp src | .cpx src | .cpy src => ⟨_, rfl, (foldl_apply_sourceReads s src s.mem).symm⟩
  | .sta dst | .stx dst | .sty dst => ⟨_, rfl, store_mem_eq s dst _⟩
  | .asl tgt | .lsr tgt | .rol tgt | .ror tgt => ⟨_, rfl, modify_mem_eq s tgt _⟩
  | .inc dst | .dec dst => ⟨_, rfl, modifyMemory_mem_eq s dst _⟩
  | .bcc d | .bcs d | .beq d | .bne d | .bmi d | .bpl d | .bvc d | .bvs d => ⟨_, rfl, branchIf_mem s _ d⟩
  | .jmp tgt => ⟨_, exec_jmp s tgt, (foldl_apply_resolveReads s tgt s.mem).symm⟩
  | .brk => ⟨_, exec_brk s, enter_mem_eq s _ _ _⟩
  | .pha | .php | .jsr _ => ⟨_, rfl, rfl⟩
  | .pla | .plp | .rts | .rti => ⟨_, rfl, rfl⟩
  | .tax | .tay | .tsx | .txa | .txs | .tya | .inx | .iny | .dex | .dey => ⟨_, rfl, rfl⟩
  | .clc | .sec | .cli | .sei | .cld | .sed | .clv | .nop | .illegal _ => ⟨_, rfl, rfl⟩

end BusWrites

theorem mem_of_exec {i : Instr} {s t : State} (h : exec i s = .next t) :
    t.mem = (dataAccesses i s).foldl Access.apply s.mem := by
  obtain ⟨u, hu, hmem⟩ := exec_mem_eq s i
  rw [hu] at h
  injection h with h
  exact h ▸ hmem

theorem stepAccesses_nmi {s : State} (hr : s.run = .running) (hn : s.nmiPending = true) :
    stepAccesses s = enterAccesses s s.pc Config.nmiVector false := by
  simp [stepAccesses, hr, hn]

theorem stepAccesses_irq {s : State} (hr : s.run = .running) (hn : s.nmiPending = false) (hl : s.irqLine = true)
    (hi : s.p.i = false) : stepAccesses s = enterAccesses s s.pc Config.irqVector false := by
  simp [stepAccesses, hr, hn, hl, hi]

theorem stepAccesses_ready {s : State} (h : s.Ready) :
    stepAccesses s = fetchAccesses s.fetched s.pc ++ dataAccesses s.fetched (s.pastInstr s.fetched) := by
  obtain ⟨hr, hn, hi⟩ := h
  simp [stepAccesses, hr, hn, hi]

/-- Settles O55: instruction by instruction, and by what a step can do; the instruction's own bytes are only read. -/
theorem memoryChangesAreTheBusWrites : Obligations.MemoryChangesAreTheBusWrites := by
  unfold Obligations.MemoryChangesAreTheBusWrites
  refine ⟨fun i s t => mem_of_exec, fun s t h => ?_⟩
  obtain ⟨hr, ⟨hn, rfl⟩ | ⟨hn, hl, hi, rfl⟩ | ⟨hready, hexec⟩⟩ := step_cases h
  · rw [stepAccesses_nmi hr hn]
    exact enter_mem_eq (s.setNmi false) s.pc Config.nmiVector false
  · rw [stepAccesses_irq hr hn hl hi]
    exact enter_mem_eq s s.pc Config.irqVector false
  · rw [stepAccesses_ready hready, List.foldl_append, foldl_apply_fetchAccesses]
    exact mem_of_exec hexec

end Sys2Proof.Machine
end

section
/-! PROOFS. The statements of 30_encoding.md: the decoder and the encoder undo each other, the opcode byte decides the
length, and a step runs what the bytes at PC decode to. The decoder follows R84's matrix and the encoder R84's table by
mnemonic, so the round trip of an instruction turns on one fact of its mnemonic's line: under each byte that the line
lists, the matrix holds the form of the line's mode. -/

namespace Sys2Proof

/-! ## The form of a mode (R81) -/

/-- The entry of the matrix for an effective-address mode of `k`; the other modes have none. -/
def memForm (k : MemOperand → Instr) : AddrMode → OpForm
  | .zp   => .zp k
  | .zpx  => .zpx k
  | .zpy  => .zpy k
  | .abs  => .abs k
  | .absx => .absx k
  | .absy => .absy k
  | .ind  => .ind k
  | .indx => .indx k
  | .indy => .indy k
  | .imm | .acc | .impl | .rel => .illegal

/-- The entry of the matrix for a mode of a read-type instruction (R115). -/
def sourceForm (k : Source → Instr) : AddrMode → OpForm
  | .imm => .imm k
  | m    => memForm (onSource k) m

/-- The entry of the matrix for a mode of a read-modify-write instruction (R117). -/
def targetForm (k : Target → Instr) : AddrMode → OpForm
  | .acc => .bare (k .acc)
  | m    => memForm (onTarget k) m

/-- R82: a two-byte operand is read back from its bytes. -/
theorem decodeTail_word_bytes (k : Addr → Instr) (a : Addr) (op : Byte) (rest : List Byte) :
    (OpForm.word k).decodeTail op (loByte a :: hiByte a :: rest) = .ok (k a, rest) := by
  rw [decodeTail_word, joinBytes_hiByte_loByte]

theorem decodeTail_memForm (k : MemOperand → Instr) (m : MemOperand) (op : Byte) (rest : List Byte) :
    (memForm k m.mode).decodeTail op (m.bytes ++ rest) = .ok (k m, rest) := by
  cases m with
  | zp | zpx | zpy | indx | indy => rfl
  | abs a | absx a | absy a | ind a => exact decodeTail_word_bytes _ a op rest

theorem decodeTail_sourceForm (k : Source → Instr) (o : Source) (op : Byte) (rest : List Byte) :
    (sourceForm k o.mode).decodeTail op (o.bytes ++ rest) = .ok (k o, rest) := by
  cases o with
  | imm n => rfl
  | mem m =>
    have hform : sourceForm k m.mode = memForm (onSource k) m.mode := by cases m <;> rfl
    exact hform ▸ decodeTail_memForm (onSource k) m op rest

theorem decodeTail_targetForm (k : Target → Instr) (o : Target) (op : Byte) (rest : List Byte) :
    (targetForm k o.mode).decodeTail op (o.bytes ++ rest) = .ok (k o, rest) := by
  cases o with
  | acc => rfl
  | mem m =>
    have hform : targetForm k m.mode = memForm (onTarget k) m.mode := by cases m <;> rfl
    exact hform ▸ decodeTail_memForm (onTarget k) m op rest

/-! ## The illegal entries of the matrix (R85) -/

theorem opForm_of_mem_illegalBytes {op : Byte} (h : op ∈ illegalBytes) : opForm op = .illegal := by
  obtain ⟨-, -, -, -, hillegal⟩ := build_sound op 0 0
  exact hillegal h

theorem mem_illegalBytes_of_build {op b1 b2 o : Byte} (h : (opForm op).build op b1 b2 = .illegal o) :
    op ∈ illegalBytes := by
  obtain ⟨-, -, -, hlegal, -⟩ := build_sound op b1 b2
  exact by_contra fun hop => hlegal hop o h

/-! ## From an instruction to its bytes and back -/

/-- The instruction has an opcode byte, and its bytes decode to it. -/
def Instr.DecodesBack (i : Instr) : Prop :=
  ∃ op, i.opcode = some op ∧ ∀ rest, decode (op :: (i.operandBytes ++ rest)) = .ok (i, rest)

/-- A mode that a line of the table by mnemonic lists has its byte in the line. -/
theorem exists_pick_of_mem {line : List (AddrMode × Byte)} {m : AddrMode} (h : m ∈ line.map Prod.fst) :
    ∃ op, pick line m = some op ∧ (m, op) ∈ line := by
  obtain ⟨e, he, rfl⟩ := List.mem_map.1 h
  obtain ⟨op, hop⟩ := Option.isSome_iff_exists.1 (List.lookup_isSome_iff.2 ⟨e, he, beq_self_eq_true _⟩)
  obtain ⟨l, l', rfl, -⟩ := List.lookup_eq_some_iff.1 hop
  exact ⟨op, hop, by simp⟩

/-- An instruction with a line of the table by mnemonic decodes back, where the line lists its modes and the matrix agrees
with the line: the byte of its mode is listed, and there the matrix has the form of its mode. -/
theorem Instr.decodesBack_of_line {i : Instr} {m : AddrMode} {modes : List AddrMode} {form : AddrMode → OpForm}
    {line : List (AddrMode × Byte)} (hwf : decide (m ∈ modes) = true)
    (hform : ∀ op rest, (form m).decodeTail op (i.operandBytes ++ rest) = .ok (i, rest))
    (hop : i.opcode = pick line m) (hmodes : ∀ a ∈ modes, a ∈ line.map Prod.fst)
    (hmatrix : line.map (fun e => opForm e.2) = line.map fun e => form e.1) : i.DecodesBack := by
  obtain ⟨op, hpick, hmem⟩ := exists_pick_of_mem (hmodes m (of_decide_eq_true hwf))
  have hentry : opForm op = form m := List.map_inj_left.1 hmatrix (m, op) hmem
  exact ⟨op, hop.trans hpick, fun rest => by rw [decode_cons, hentry, hform]⟩

/-- R84, R85: every well-formed instruction decodes back, by the kind of its operand. -/
theorem Instr.decodesBack_of_wellFormed : ∀ i : Instr, i.wellFormed = true → i.DecodesBack
  | .lda _, h | .ldx _, h | .ldy _, h | .adc _, h | .sbc _, h | .and _, h | .ora _, h | .eor _, h | .bit _, h
  | .cmp _, h | .cpx _, h | .cpy _, h =>
    decodesBack_of_line h (decodeTail_sourceForm _ _) rfl (by decide) rfl
  | .sta _, h | .stx _, h | .sty _, h | .inc _, h | .dec _, h | .jmp _, h =>
    decodesBack_of_line h (decodeTail_memForm _ _) rfl (by decide) rfl
  | .asl _, h | .lsr _, h | .rol _, h | .ror _, h =>
    decodesBack_of_line h (decodeTail_targetForm _ _) rfl (by decide) rfl
  | .bcc _, _ | .bcs _, _ | .beq _, _ | .bne _, _ | .bmi _, _ | .bpl _, _ | .bvc _, _ | .bvs _, _
  | .pha, _ | .pla, _ | .plp, _ | .php, _
  | .tax, _ | .tay, _ | .tsx, _ | .txa, _ | .txs, _ | .tya, _ | .inx, _ | .iny, _ | .dex, _ | .dey, _
  | .clc, _ | .sec, _ | .cli, _ | .sei, _ | .cld, _ | .sed, _ | .clv, _
  | .rts, _ | .brk, _ | .rti, _ | .nop, _ => ⟨_, rfl, fun _ => rfl⟩
  | .jsr a, _ => ⟨0x20, rfl, fun rest => decodeTail_word_bytes .jsr a 0x20 rest⟩
  | .illegal op, h => by
    have hop : op ∈ illegalBytes := of_decide_eq_true h
    exact ⟨op, if_pos hop, fun rest => by rw [decode_cons, opForm_of_mem_illegalBytes hop]; rfl⟩

theorem encode_of_opcode {i : Instr} {op : Byte} (h : i.opcode = some op) : encode i = some (op :: i.operandBytes) :=
  congrArg (Option.map (· :: i.operandBytes)) h

/-- Settles O1: a well-formed instruction has an opcode byte, and its bytes decode back. -/
theorem encodedInstructionDecodesBack : Obligations.EncodedInstructionDecodesBack := by
  unfold Obligations.EncodedInstructionDecodesBack
  intro i rest hwf
  obtain ⟨op, hop, hdecode⟩ := i.decodesBack_of_wellFormed hwf
  exact ⟨op :: i.operandBytes, encode_of_opcode hop, Nat.add_comm .., hdecode rest⟩

/-! ## From bytes to an instruction and back -/

/-- What a sound form reads is well-formed, has the form's byte as its opcode, and its operand bytes are those read. -/
theorem OpForm.Sound.of_decodeTail {f : OpForm} {op : Byte} {tail rest : List Byte} {i : Instr} (hf : f.Sound op)
    (h : f.decodeTail op tail = .ok (i, rest)) :
    i.wellFormed = true ∧ i.opcode = some op ∧ i.operandBytes ++ rest = tail := by
  cases f with
  | illegal =>
    cases h
    exact ⟨decide_eq_true hf, if_pos hf, rfl⟩
  | bare j =>
    obtain ⟨-, hwf, hop, hbytes, -⟩ := hf
    cases h
    exact ⟨hwf, hop, congrArg (· ++ tail) hbytes⟩
  | byte k =>
    obtain ⟨-, hk⟩ := hf
    match tail, h with
    | b :: rest, rfl =>
      obtain ⟨hwf, hop, hbytes, -⟩ := hk b
      exact ⟨hwf, hop, congrArg (· ++ rest) hbytes⟩
  | word k =>
    obtain ⟨-, hk⟩ := hf
    match tail, h with
    | lo :: hi :: rest, rfl =>
      obtain ⟨hwf, hop, hbytes, -⟩ := hk (joinBytes hi lo)
      rw [loByte_joinBytes, hiByte_joinBytes] at hbytes
      exact ⟨hwf, hop, congrArg (· ++ rest) hbytes⟩

/-- Settles O2: every entry of the matrix is sound, so what it reads encodes back. -/
theorem decodedBytesEncodeBack : Obligations.DecodedBytesEncodeBack := by
  unfold Obligations.DecodedBytesEncodeBack
  intro bs i rest h
  cases bs with
  | nil => cases h
  | cons op tail =>
    obtain ⟨hwf, hop, hbytes⟩ := (opForm_sound op).of_decodeTail h
    exact ⟨hwf, op :: i.operandBytes, encode_of_opcode hop, congrArg (op :: ·) hbytes⟩

/-- Of three bytes or more, what is decoded is what the opcode byte's form builds of the first three. -/
theorem eq_build_of_decode {op b1 b2 : Byte} {rest rest' : List Byte} {i : Instr}
    (h : decode (op :: b1 :: b2 :: rest) = .ok (i, rest')) : i = (opForm op).build op b1 b2 := by
  rw [decode_build] at h
  injection h with h
  exact (Prod.mk.inj h).1.symm

/-! ## The length (R87) -/

theorem opLength_le (op : Byte) : opLength op ≤ 3 := by
  unfold opLength
  cases opForm op <;> simp [OpForm.operandBytes]

theorem opLength_of_mem_illegalBytes {op : Byte} (h : op ∈ illegalBytes) : opLength op = 1 := by
  rw [opLength, opForm_of_mem_illegalBytes h]
  rfl

/-- Settles O5: the length is that of the opcode byte's form. -/
theorem opcodeByteAloneDecidesTheLength : Obligations.OpcodeByteAloneDecidesTheLength := by
  unfold Obligations.OpcodeByteAloneDecidesTheLength
  intro op
  refine ⟨opLength op, Nat.le_add_right .., opLength_le op, opLength_of_mem_illegalBytes, fun b1 b2 rest => ?_⟩
  have hdrop : (op :: b1 :: b2 :: rest).drop (opLength op) = (b1 :: b2 :: rest).drop (opForm op).operandBytes := by
    rw [opLength, Nat.add_comm, List.drop_succ_cons]
  exact ⟨_, hdrop ▸ decode_build op b1 b2 rest, build_length op b1 b2⟩

/-! ## The table's bytes (R84, R85) -/

/-- Settles O3: the decoder reads each of the eleven byte sequences. -/
theorem writtenOutBytesDecode : Obligations.WrittenOutBytesDecode := by
  unfold Obligations.WrittenOutBytesDecode
  exact ⟨rfl, rfl, rfl, rfl, rfl, rfl, rfl, rfl, rfl, rfl, rfl⟩

/-- R85 lists the bytes in increasing order. -/
theorem illegalBytes_pairwise_lt : illegalBytes.Pairwise (· < ·) :=
  List.isChain_iff_pairwise.1 (by simp [illegalBytes])

/-- Settles O4: an entry of the matrix builds ILLEGAL of its byte exactly at the listed bytes. -/
theorem theListedBytesAreTheIllegalOnes : Obligations.TheListedBytesAreTheIllegalOnes := by
  unfold Obligations.TheListedBytesAreTheIllegalOnes
  refine ⟨fun op b1 b2 => ⟨fun h => ?_, fun h => ?_⟩, by decide, illegalBytes_pairwise_lt.imp BitVec.ne_of_lt⟩
  · exact mem_illegalBytes_of_build (eq_build_of_decode h).symm
  · rw [decode_cons, opForm_of_mem_illegalBytes h]
    rfl

end Sys2Proof

namespace Sys2Proof.Machine

/-! ## The step and the decoder (R80, R25) -/

/-- Settles O6: the instruction that a boundary with no interrupt due fetches is the one that the bytes at PC decode to. -/
theorem stepRunsTheDecodedInstruction : Obligations.StepRunsTheDecodedInstruction := by
  unfold Obligations.StepRunsTheDecodedInstruction
  refine ⟨fun s i rest hready h => ?_, fun s => ⟨s.fetched, _, fetched_wellFormed s, decode_fetched s []⟩⟩
  have hfetched : i = s.fetched := eq_build_of_decode h
  rw [hfetched]
  exact step_ready hready

end Sys2Proof.Machine
end

section
/-! PROOFS. The statements of 40_addressing.md: where each mode's effective address is, as arithmetic on the operand and
the index register, and which two bytes the pointer modes read. -/

namespace Sys2Proof.Machine

/-! ## Address arithmetic -/

/-- R103, R104, R109: an index added to a byte wraps within page 0. -/
theorem zext16_add_toNat (z i : Byte) : (zext16 (z + i)).toNat = (z.toNat + i.toNat) % 256 := by
  rw [zext16_toNat, BitVec.toNat_add]

/-- R109, R110: the next address after one in page 0, at which a pointer's high byte stands, is in page 0 too. -/
theorem zext16_add_one_toNat (z : Byte) : (zext16 (z + 1)).toNat = ((zext16 z).toNat + 1) % 256 := by
  rw [zext16_add_toNat, zext16_toNat]
  rfl

/-- R106, R107, R110: an index added to an address wraps at the end of memory. -/
theorem add_zext16_toNat (a : Addr) (i : Byte) : (a + zext16 i).toNat = (a.toNat + i.toNat) % 65536 := by
  rw [BitVec.toNat_add, zext16_toNat]

/-- R54: a pair is read low byte first. -/
theorem State.readPair_toNat (s : State) (lo hi : Addr) :
    (s.readPair lo hi).toNat = 256 * (s.read hi).toNat + (s.read lo).toNat :=
  joinBytes_toNat _ _

/-- R108: the two masks, on natural numbers. -/
theorem samePageNext_toNat_masks (p : Addr) :
    (samePageNext p).toNat = p.toNat &&& 0xFF00 ||| (p + 1).toNat &&& 0x00FF := by
  rw [samePageNext, BitVec.toNat_or, BitVec.toNat_and, BitVec.toNat_and]
  rfl

/-- R108: the page byte is the pointer's. -/
theorem samePageNext_toNat_div (p : Addr) : (samePageNext p).toNat / 256 = p.toNat / 256 :=
  calc (samePageNext p).toNat / 2 ^ 8
    _ = p.toNat / 2 ^ 8 &&& 2 ^ 8 - 1 ||| (p + 1).toNat / 2 ^ 8 &&& 0 := by
      rw [samePageNext_toNat_masks, Nat.or_div_two_pow, Nat.and_div_two_pow, Nat.and_div_two_pow]
      rfl
    _ = p.toNat / 2 ^ 8 % 2 ^ 8 := by rw [Nat.and_zero, Nat.or_zero, Nat.and_two_pow_sub_one_eq_mod]
    _ = p.toNat / 2 ^ 8 := Nat.mod_eq_of_lt (Nat.div_lt_of_lt_mul p.isLt)

/-- R108: the low byte is that of the next address. -/
theorem samePageNext_toNat_mod (p : Addr) : (samePageNext p).toNat % 256 = (p.toNat + 1) % 256 :=
  calc (samePageNext p).toNat % 2 ^ 8
    _ = p.toNat % 2 ^ 8 &&& 0 ||| (p + 1).toNat % 2 ^ 8 &&& 2 ^ 8 - 1 := by
      rw [samePageNext_toNat_masks, Nat.or_mod_two_pow, Nat.and_mod_two_pow, Nat.and_mod_two_pow]
      rfl
    _ = (p + 1).toNat % 2 ^ 8 := by rw [Nat.and_zero, Nat.zero_or, Nat.and_two_pow_sub_one_eq_mod, Nat.mod_mod]
    _ = (p.toNat + 1) % 2 ^ 8 := Nat.mod_mod_of_dvd _ (by decide)

/-- R108: the address after the pointer's, within the pointer's page. -/
theorem samePageNext_toNat (p : Addr) : (samePageNext p).toNat = p.toNat / 256 * 256 + (p.toNat + 1) % 256 := by
  rw [← samePageNext_toNat_div, ← samePageNext_toNat_mod, Nat.div_add_mod']

/-! ## The modes -/

/-- R108: the pair at the pointer, within its page. -/
theorem resolve_ind (p : Addr) (s : State) : resolve (.ind p) s = s.readPair p (samePageNext p) := rfl

/-- Settles O20: the high byte's address is `samePageNext p`. -/
theorem indirectPointerStaysInItsPage : Obligations.IndirectPointerStaysInItsPage := by
  unfold Obligations.IndirectPointerStaysInItsPage
  intro p s
  refine ⟨samePageNext p, samePageNext_toNat p, ?_⟩
  rw [resolve_ind, State.readPair_toNat]

/-- R109: the pair at z + X in page 0. -/
theorem resolve_indx (z : Byte) (s : State) :
    resolve (.indx z) s = s.readPair (zext16 (z + s.x)) (zext16 (z + s.x + 1)) := rfl

/-- R110: the pair at z in page 0, and Y. -/
theorem resolve_indy (z : Byte) (s : State) :
    resolve (.indy z) s = s.readPair (zext16 z) (zext16 (z + 1)) + zext16 s.y := rfl

/-- Settles O21: both pointers are pairs in page 0, the one at z + X and the other at z. -/
theorem zeroPagePointersWrapInPageZero : Obligations.ZeroPagePointersWrapInPageZero := by
  unfold Obligations.ZeroPagePointersWrapInPageZero
  intro z s
  constructor
  · refine ⟨zext16 (z + s.x), zext16 (z + s.x + 1), zext16_add_toNat z s.x, zext16_add_one_toNat (z + s.x), ?_⟩
    rw [resolve_indx, State.readPair_toNat]
  · refine ⟨zext16 z, zext16 (z + 1), zext16_toNat z, zext16_add_one_toNat z, ?_⟩
    rw [resolve_indy, add_zext16_toNat, State.readPair_toNat]

/-- Settles O19: the zero-page modes index a byte, the absolute modes an address. -/
theorem zeroPageWrapsAt256AndAbsoluteAt64K : Obligations.ZeroPageWrapsAt256AndAbsoluteAt64K := by
  unfold Obligations.ZeroPageWrapsAt256AndAbsoluteAt64K
  exact fun z a s => ⟨zext16_toNat z, zext16_add_toNat z s.x, zext16_add_toNat z s.y, rfl,
    add_zext16_toNat a s.x, add_zext16_toNat a s.y⟩

end Sys2Proof.Machine
end

section
/-! PROOFS. The statements of 41_load_store.md: the encodings of the loads and stores, and what each writes. A load's frame is
read off its writers (frame_of_exec), and a store is one write, whose law is O15's. -/

namespace Sys2Proof.Machine

/-! ## A line of the table by mnemonic (R84) -/

theorem SourceLine.of_opcode {k : Source → Instr} {line : List (AddrMode × Byte)}
    (hop : ∀ o, (k o).opcode = pick line o.mode) (hbytes : ∀ o, (k o).operandBytes = o.bytes) : SourceLine k line := by
  intro o
  rw [encode, hop, hbytes, pick]

theorem MemLine.of_opcode {k : MemOperand → Instr} {line : List (AddrMode × Byte)}
    (hop : ∀ o, (k o).opcode = pick line o.mode) (hbytes : ∀ o, (k o).operandBytes = o.bytes) : MemLine k line := by
  intro o
  rw [encode, hop, hbytes, pick]

/-! ## What an instruction writes -/

/-- R30: the flags that `setNZ` gives are Z and N of the result. -/
theorem nz_setNZ (p : Flags) (r : Byte) : NZ (p.setNZ r) r :=
  ⟨decide_eq_true_iff.trans BitVec.toNat_eq, msb_iff r⟩

/-- The next state of a legal instruction is in the frame of the instruction's writers. -/
theorem frame_of_exec {i : Instr} {s t : State} (h : exec i s = .next t) (hi : ∀ op, i ≠ .illegal op) :
    Frame s t i.writesRegs i.writesFlags (i.storedAt s) :=
  (exec_cases h).resolve_left fun ⟨op, hop, _⟩ => hi op hop

/-! ## The instructions -/

/-- Settles O22: each load sets its register to the operand and the flags by `setNZ` of it. -/
theorem loadsFillTheirRegister : Obligations.LoadsFillTheirRegister := by
  unfold Obligations.LoadsFillTheirRegister
  refine ⟨⟨.of_opcode (fun _ => rfl) fun _ => rfl, fun src s => ?lda⟩,
    ⟨.of_opcode (fun _ => rfl) fun _ => rfl, fun src s => ?ldx⟩,
    ⟨.of_opcode (fun _ => rfl) fun _ => rfl, fun src s => ?ldy⟩⟩
  case lda => exact ⟨_, exec_lda s src, rfl, nz_setNZ _ _, frame_of_exec (exec_lda s src) nofun⟩
  case ldx => exact ⟨_, exec_ldx s src, rfl, nz_setNZ _ _, frame_of_exec (exec_ldx s src) nofun⟩
  case ldy => exact ⟨_, exec_ldy s src, rfl, nz_setNZ _ _, frame_of_exec (exec_ldy s src) nofun⟩

/-- Settles O23: each store is one write of its register at the effective address, to which O15 applies. -/
theorem storesWriteOneByteAndNoFlag : Obligations.StoresWriteOneByteAndNoFlag := by
  unfold Obligations.StoresWriteOneByteAndNoFlag
  refine ⟨⟨.of_opcode (fun _ => rfl) fun _ => rfl, fun m s => ?sta⟩,
    ⟨.of_opcode (fun _ => rfl) fun _ => rfl, fun m s => ?stx⟩,
    ⟨.of_opcode (fun _ => rfl) fun _ => rfl, fun m s => ?sty⟩⟩
  case sta => exact ⟨_, exec_sta s m, writeSetsOneByteOnly s (resolve m s) s.a⟩
  case stx => exact ⟨_, exec_stx s m, writeSetsOneByteOnly s (resolve m s) s.x⟩
  case sty => exact ⟨_, exec_sty s m, writeSetsOneByteOnly s (resolve m s) s.y⟩

end Sys2Proof.Machine
end

section
/-! PROOFS. The statements of 42_arithmetic.md: ADC's sum, SBC's difference as ADC's sum with the complement of the operand,
V as overflow of the exact signed result, and D as an input of no computation. -/

namespace Sys2Proof.Machine

/-! ## ADC's sum (R140) -/

section Sum

variable (p : Flags) (a m : Byte)

theorem addFlags_toNat : (addFlags p a m).1.toNat = (a.toNat + m.toNat + p.c.toNat) % 256 :=
  BitVec.toNat_ofNat _ 8

theorem addFlags_c_iff : (addFlags p a m).2.c = true ↔ 255 < a.toNat + m.toNat + p.c.toNat :=
  decide_eq_true_iff

theorem addFlags_v_iff :
    (addFlags p a m).2.v = true ↔ a.msb = m.msb ∧ a.msb ≠ (addFlags p a m).1.msb := by
  simp [addFlags, Flags.setNZ]

theorem nz_addFlags : NZ (addFlags p a m).2 (addFlags p a m).1 :=
  nz_setNZ _ _

end Sum

/-- Settles O24: A and the flags are those of the sum. -/
theorem adcAddsWithCarry : Obligations.AdcAddsWithCarry := by
  unfold Obligations.AdcAddsWithCarry
  refine ⟨.of_opcode (fun _ => rfl) fun _ => rfl, fun src s => ?_⟩
  exact ⟨_, exec_adc s src, addFlags_toNat _ _ _, addFlags_c_iff _ _ _, addFlags_v_iff _ _ _, nz_addFlags _ _ _,
    frame_of_exec (exec_adc s src) nofun⟩

/-! ## SBC's difference (R141) -/

section Difference

variable (p : Flags) (a m : Byte)

/-- The complement of a byte has the other sign. -/
theorem msb_complement : (~~~m).msb = !m.msb := by
  simp [BitVec.msb_not]

/-- R141: SBC is ADC of the one's complement of the operand. -/
theorem subFlags_eq_addFlags : subFlags p a m = addFlags p a (~~~m) := by
  have hv : ∀ r : Byte, (a.msb != m.msb && a.msb != r.msb) = (a.msb == (~~~m).msb && a.msb != r.msb) := by
    intro r
    rw [msb_complement]
    cases a.msb <;> cases m.msb <;> rfl
  simp only [subFlags, addFlags, hv]

theorem subFlags_toNat : (subFlags p a m).1.toNat = (a.toNat + (255 - m.toNat) + p.c.toNat) % 256 := by
  rw [subFlags_eq_addFlags, addFlags_toNat, BitVec.toNat_not]

/-- R141: carry is not-borrow. -/
theorem subFlags_c_iff : (subFlags p a m).2.c = true ↔ m.toNat + (1 - p.c.toNat) ≤ a.toNat := by
  have hm := m.isLt
  have hc := p.c.toNat_le
  rw [subFlags_eq_addFlags, addFlags_c_iff, BitVec.toNat_not]
  omega

theorem subFlags_v_iff :
    (subFlags p a m).2.v = true ↔ a.msb ≠ m.msb ∧ a.msb ≠ (subFlags p a m).1.msb := by
  rw [subFlags_eq_addFlags, addFlags_v_iff, msb_complement, Bool.eq_not]

theorem nz_subFlags : NZ (subFlags p a m).2 (subFlags p a m).1 :=
  nz_setNZ _ _

end Difference

/-- Settles O25: A and the flags are those of the difference. -/
theorem sbcSubtractsWithBorrow : Obligations.SbcSubtractsWithBorrow := by
  unfold Obligations.SbcSubtractsWithBorrow
  refine ⟨.of_opcode (fun _ => rfl) fun _ => rfl, fun src s => ?_⟩
  exact ⟨_, exec_sbc s src, subFlags_toNat _ _ _, subFlags_c_iff _ _ _, subFlags_v_iff _ _ _, nz_subFlags _ _ _,
    frame_of_exec (exec_sbc s src) nofun⟩

/-! ## Signed overflow (R142) -/

/-- R142: a byte's sign bit, and its value in two's complement. -/
theorem sign_cases (b : Byte) :
    (b.msb = false ∧ b.toNat < 128 ∧ b.toInt = b.toNat) ∨
      (b.msb = true ∧ 128 ≤ b.toNat ∧ b.toInt = (b.toNat : Int) - 256) := by
  have hmsb := msb_iff b
  have hint := BitVec.toInt_eq_msb_cond b
  cases h : b.msb with
  | false => exact .inl ⟨rfl, by simpa [h] using hmsb, by simpa [h] using hint⟩
  | true => exact .inr ⟨rfl, hmsb.1 h, by simpa [h] using hint⟩

/-- R141, R142: the complement of a byte is its negation less one. -/
theorem toInt_complement (m : Byte) : (~~~m).toInt = -m.toInt - 1 := by
  have hnot : (~~~m).toNat = 255 - m.toNat := BitVec.toNat_not
  have hm := m.isLt
  obtain ⟨-, _, hi⟩ | ⟨-, _, hi⟩ := sign_cases m <;>
  obtain ⟨-, _, hni⟩ | ⟨-, _, hni⟩ := sign_cases (~~~m) <;>
  omega

/-- Operands of different signs have an exact sum that fits 8 bits. Operands of one sign have one that does not exactly when
the sum mod 256 has the other sign. -/
theorem addFlags_v_iff_overflow (p : Flags) (a m : Byte) :
    (addFlags p a m).2.v = true ↔
      ¬ (-128 ≤ a.toInt + m.toInt + p.c.toNat ∧ a.toInt + m.toInt + p.c.toNat ≤ 127) := by
  have hr := addFlags_toNat p a m
  have hc := p.c.toNat_le
  rw [addFlags_v_iff]
  generalize (addFlags p a m).1 = r at hr ⊢
  have hover := msb_iff r
  obtain ⟨ha, _, hai⟩ | ⟨ha, _, hai⟩ := sign_cases a <;>
  obtain ⟨hm, _, hmi⟩ | ⟨hm, _, hmi⟩ := sign_cases m <;>
  rw [ha, hm, hai, hmi]
  case inl.inl =>
    rw [ne_comm, Bool.ne_false_iff, hover, eq_self, true_and]
    omega
  case inl.inr => exact iff_of_false (fun ⟨hsign, _⟩ => nomatch hsign) (by omega)
  case inr.inl => exact iff_of_false (fun ⟨hsign, _⟩ => nomatch hsign) (by omega)
  case inr.inr =>
    rw [ne_comm, Ne, hover, eq_self, true_and]
    omega

/-- Settles O26: SBC overflows where the sum with the complement does. -/
theorem overflowIsSignedOverflow : Obligations.OverflowIsSignedOverflow := by
  unfold Obligations.OverflowIsSignedOverflow
  intro src s
  refine ⟨⟨_, exec_adc s src, ?adc⟩, ⟨_, exec_sbc s src, ?sbc⟩⟩
  case adc => exact addFlags_v_iff_overflow _ _ _
  case sbc =>
    have hexact : s.a.toInt - (sourceValue src s).toInt - (1 - (s.p.c.toNat : Int)) =
        s.a.toInt + (~~~sourceValue src s).toInt + s.p.c.toNat := by
      rw [toInt_complement]
      ring
    rw [hexact, subFlags_eq_addFlags]
    exact addFlags_v_iff_overflow _ _ _

/-! ## D reaches no computation (R143) -/

/-- The state with another value of D. -/
def State.withD (s : State) (b : Bool) : State := s.setP (s.p.setFlag .d b)

/-- A branch moves PC by the same displacement, or nothing. -/
theorem branchIf_withD (s : State) (b cond : Bool) (d : Byte) :
    branchIf cond d (s.withD b) = (branchIf cond d s).withD b := by
  cases cond <;> rfl

/-- Both runs read the same registers, bytes of memory and other flags, and neither writes D, so that each update commutes
with the change of D by computation; a branch is split on its condition. -/
theorem exec_withD (s : State) (b : Bool) : ∀ i : Instr, i ∉ [.php, .plp, .brk, .rti, .cld, .sed] →
    ∃ t, exec i s = .next t ∧ exec i (s.withD b) = .next (t.withD b)
  | .lda src, _ | .ldx src, _ | .ldy src, _ => ⟨_, rfl, rfl⟩
  | .adc src, _ | .sbc src, _ | .and src, _ | .ora src, _ | .eor src, _ => ⟨_, rfl, rfl⟩
  | .bit src, _ | .cmp src, _ | .cpx src, _ | .cpy src, _ => ⟨_, rfl, rfl⟩
  | .sta dst, _ | .stx dst, _ | .sty dst, _ | .inc dst, _ | .dec dst, _ => ⟨_, rfl, rfl⟩
  | .asl .acc, _ | .lsr .acc, _ | .rol .acc, _ | .ror .acc, _ => ⟨_, rfl, rfl⟩
  | .asl (.mem m), _ | .lsr (.mem m), _ | .rol (.mem m), _ | .ror (.mem m), _ => ⟨_, rfl, rfl⟩
  | .bcc d, _ | .bcs d, _ | .beq d, _ | .bne d, _ | .bmi d, _ | .bpl d, _ | .bvc d, _ | .bvs d, _ =>
    ⟨_, rfl, congrArg _ (branchIf_withD s b _ d)⟩
  | .pha, _ | .pla, _ | .jmp _, _ | .jsr _, _ | .rts, _ => ⟨_, rfl, rfl⟩
  | .tax, _ | .tay, _ | .tsx, _ | .txa, _ | .txs, _ | .tya, _ | .inx, _ | .iny, _ | .dex, _ | .dey, _ => ⟨_, rfl, rfl⟩
  | .clc, _ | .sec, _ | .cli, _ | .sei, _ | .clv, _ | .nop, _ | .illegal _, _ => ⟨_, rfl, rfl⟩
  | .php, h | .plp, h | .brk, h | .rti, h | .cld, h | .sed, h => absurd (by decide) h

/-- Settles O27: the two runs are of the state and of the state with the other value of D. -/
theorem decimalFlagReachesNoComputation : Obligations.DecimalFlagReachesNoComputation := by
  unfold Obligations.DecimalFlagReachesNoComputation
  exact fun i s b h => exec_withD s b i h

end Sys2Proof.Machine
end

section
/-! PROOFS. The statements of 43_logic.md: A and N, Z after AND, ORA and EOR, each bit of A by the library's law of the bitwise
operation, and BIT's three flags as bits of the operand and of the conjunction. -/

namespace Sys2Proof.Machine

/-! ## AND, ORA and EOR (R150 to R152) -/

/-- Settles O28: each sets A to the bitwise operation on A and the operand, and the flags by `setNZ` of it. -/
theorem logicWorksBitByBit : Obligations.LogicWorksBitByBit := by
  unfold Obligations.LogicWorksBitByBit
  refine ⟨⟨.of_opcode (fun _ => rfl) fun _ => rfl, fun src s => ?and⟩,
    ⟨.of_opcode (fun _ => rfl) fun _ => rfl, fun src s => ?ora⟩,
    ⟨.of_opcode (fun _ => rfl) fun _ => rfl, fun src s => ?eor⟩⟩
  case and =>
    exact ⟨_, exec_and s src, fun _ => BitVec.getLsbD_and, nz_setNZ _ _, frame_of_exec (exec_and s src) nofun⟩
  case ora =>
    exact ⟨_, exec_ora s src, fun _ => BitVec.getLsbD_or, nz_setNZ _ _, frame_of_exec (exec_ora s src) nofun⟩
  case eor =>
    exact ⟨_, exec_eor s src, fun _ => BitVec.getLsbD_xor, nz_setNZ _ _, frame_of_exec (exec_eor s src) nofun⟩

/-! ## BIT's flags (R153) -/

section BitFlags

variable (p : Flags) (a m : Byte)

/-- Z: no bit is common to both. -/
theorem bitFlags_z_iff : (bitFlags p a m).z = true ↔ ∀ k, (a.getLsbD k && m.getLsbD k) = false :=
  calc (bitFlags p a m).z = true
    _ ↔ a &&& m = 0 := decide_eq_true_iff
    _ ↔ ∀ k, (a &&& m).getLsbD k = false := BitVec.zero_iff_eq_false
    _ ↔ ∀ k, (a.getLsbD k && m.getLsbD k) = false := by simp only [BitVec.getLsbD_and]

/-- N: bit 7 of a byte is its sign bit. -/
theorem bitFlags_n_iff : (bitFlags p a m).n = true ↔ 128 ≤ m.toNat := by
  rw [← msb_iff, BitVec.msb_eq_getLsbD_last]
  rfl

/-- V: bit 6 of a byte is the top bit of the byte mod 128. -/
theorem bitFlags_v_iff : (bitFlags p a m).v = true ↔ 64 ≤ m.toNat % 128 :=
  calc m.toNat.testBit 6 = true
    _ ↔ m.toNat / 2 ^ 6 % 2 = 1 := by rw [Nat.testBit_eq_decide_div_mod_eq, decide_eq_true_iff]
    _ ↔ 64 ≤ m.toNat % 128 := by omega

end BitFlags

/-- Settles O29: the flags are those of `bitFlags`, and nothing else is written. -/
theorem bitTestsWithoutWriting : Obligations.BitTestsWithoutWriting := by
  unfold Obligations.BitTestsWithoutWriting
  refine ⟨.of_opcode (fun _ => rfl) fun _ => rfl, fun src s => ?_⟩
  exact ⟨_, exec_bit s src, bitFlags_z_iff _ _ _, bitFlags_n_iff _ _ _, bitFlags_v_iff _ _ _,
    frame_of_exec (exec_bit s src) nofun⟩

end Sys2Proof.Machine
end

section
/-! PROOFS. The statements of 44_shift_rotate.md: the encodings of the shifts and rotates, the read-modify-write shape
they share, and each one's result as arithmetic on the operand and the old carry. -/

namespace Sys2Proof.Machine

/-! ## The shape of a read-modify-write instruction (R84, R117) -/

theorem TargetLine.of_opcode {k : Target → Instr} {line : List (AddrMode × Byte)}
    (hop : ∀ o, (k o).opcode = pick line o.mode) (hbytes : ∀ o, (k o).operandBytes = o.bytes) : TargetLine k line := by
  intro o
  rw [encode, hop, hbytes, pick]

/-- R117: what the computation of result and flags does, the instruction does on A and on the byte at EA. -/
theorem Modifies.of_modify {k : Target → Instr} {f : Flags → Byte → Byte × Flags}
    {rel : Flags → Byte → Flags → Byte → Prop} {flags : List FlagName}
    (hexec : ∀ s tgt, exec (k tgt) s = .next (modify tgt f s)) (hrel : ∀ p v, rel p v (f p v).2 (f p v).1)
    (hflags : ∀ p v {g}, g ∉ flags → (f p v).2.getFlag g = p.getFlag g) : Modifies k rel flags := by
  refine ⟨fun s => ⟨_, hexec s .acc, hrel s.p s.a, modify_acc_frame s hflags⟩,
    fun m s => ⟨_, hexec s (.mem m), ?_, modifyMemory_frame s m hflags⟩⟩
  have hread : (modifyMemory m f s).read (resolve m s) = (f s.p (s.read (resolve m s))).1 := by
    rw [modifyMemory_read, if_pos rfl]
  exact hread ▸ hrel s.p (s.read (resolve m s))

/-! ## The bit that is shifted out -/

/-- Bit 7 of a byte is its sign bit. -/
theorem getLsbD_seven_iff (v : Byte) : v.getLsbD 7 = true ↔ 128 ≤ v.toNat := by
  rw [← msb_iff, BitVec.msb_eq_getLsbD_last]

/-- Bit 0 of a byte is its parity. -/
theorem getLsbD_zero_iff (v : Byte) : v.getLsbD 0 = true ↔ v.toNat % 2 = 1 := by
  rw [BitVec.getLsbD, Nat.testBit_zero, decide_eq_true_iff]

/-! ## The results (R160 to R163) -/

section Results

variable (p : Flags) (v : Byte)

theorem bitOf_toNat (b : Bool) : (bitOf b).toNat = b.toNat := by
  cases b <;> rfl

theorem aslFlags_toNat : (aslFlags p v).1.toNat = 2 * v.toNat % 256 := by
  rw [aslFlags, BitVec.toNat_shiftLeft, Nat.shiftLeft_eq, Nat.mul_comm]

theorem lsrFlags_toNat : (lsrFlags p v).1.toNat = v.toNat / 2 :=
  BitVec.toNat_ushiftRight v 1

/-- A shift left vacates bit 0, so that putting the old carry there is adding it. -/
theorem rolFlags_eq_add : (rolFlags p v).1 = v <<< 1 + bitOf p.c := by
  refine (BitVec.add_eq_or_of_and_eq_zero _ _ (BitVec.eq_of_getLsbD_eq fun k hk => ?_)).symm
  cases k with
  | zero => simp
  | succ k => simp [hk]

theorem rolFlags_toNat : (rolFlags p v).1.toNat = (2 * v.toNat + p.c.toNat) % 256 := by
  rw [rolFlags_eq_add, BitVec.toNat_add, bitOf_toNat, BitVec.toNat_shiftLeft, Nat.shiftLeft_eq, Nat.mul_comm,
    Nat.mod_add_mod]

/-- A shift right vacates bit 7, so that putting the old carry there is adding it at that place. -/
theorem rorFlags_eq_add : (rorFlags p v).1 = v >>> 1 + bitOf p.c <<< 7 := by
  refine (BitVec.add_eq_or_of_and_eq_zero _ _ (BitVec.eq_of_getLsbD_eq fun k hk => ?_)).symm
  by_cases h : k < 7
  · simp [h]
  · obtain rfl : k = 7 := by omega
    simp

theorem rorFlags_toNat : (rorFlags p v).1.toNat = v.toNat / 2 + 128 * p.c.toNat := by
  have hv := v.isLt
  have hc := p.c.toNat_le
  rw [rorFlags_eq_add, BitVec.toNat_add, BitVec.toNat_ushiftRight, BitVec.toNat_shiftLeft, bitOf_toNat,
    Nat.shiftLeft_eq, Nat.shiftRight_eq_div_pow]
  omega

/-- The vacated bit 7 is 0. -/
theorem lsrFlags_n : (lsrFlags p v).2.n = false := by
  have hn : (lsrFlags p v).2.n = true ↔ 128 ≤ (lsrFlags p v).1.toNat := (nz_setNZ _ _).2
  have hv := v.isLt
  rw [Bool.eq_false_iff, Ne, hn, lsrFlags_toNat]
  omega

/-- The vacated bit 7 is the old carry. -/
theorem rorFlags_n : (rorFlags p v).2.n = p.c := by
  have hn : (rorFlags p v).2.n = true ↔ 128 ≤ (rorFlags p v).1.toNat := (nz_setNZ _ _).2
  have hv := v.isLt
  rw [Bool.eq_iff_iff, hn, rorFlags_toNat]
  cases p.c with
  | false => simp; omega
  | true => simp

end Results

/-- Settles O30: each is one `modify` of its computation, whose C is the bit shifted out and whose N and Z are `setNZ`
of the result. -/
theorem shiftsAndRotatesMoveOneBitIntoCarry : Obligations.ShiftsAndRotatesMoveOneBitIntoCarry := by
  unfold Obligations.ShiftsAndRotatesMoveOneBitIntoCarry
  refine ⟨⟨.of_opcode (fun _ => rfl) fun _ => rfl,
      .of_modify exec_asl (fun p v => ?asl) fun p _ => getFlag_shiftFlags p _ _⟩,
    ⟨.of_opcode (fun _ => rfl) fun _ => rfl,
      .of_modify exec_lsr (fun p v => ?lsr) fun p _ => getFlag_shiftFlags p _ _⟩,
    ⟨.of_opcode (fun _ => rfl) fun _ => rfl,
      .of_modify exec_rol (fun p v => ?rol) fun p _ => getFlag_shiftFlags p _ _⟩,
    ⟨.of_opcode (fun _ => rfl) fun _ => rfl,
      .of_modify exec_ror (fun p v => ?ror) fun p _ => getFlag_shiftFlags p _ _⟩⟩
  case asl => exact ⟨aslFlags_toNat p v, getLsbD_seven_iff v, nz_setNZ _ _⟩
  case lsr => exact ⟨lsrFlags_toNat p v, getLsbD_zero_iff v, lsrFlags_n p v, nz_setNZ _ _⟩
  case rol => exact ⟨rolFlags_toNat p v, getLsbD_seven_iff v, nz_setNZ _ _⟩
  case ror => exact ⟨rorFlags_toNat p v, getLsbD_zero_iff v, rorFlags_n p v, nz_setNZ _ _⟩

end Sys2Proof.Machine
end

section
/-! PROOFS. The statements of 45_compare.md: the three flags of a comparison as arithmetic on the register and the operand,
and CMP, CPX and CPY as that comparison of A, X and Y. -/

namespace Sys2Proof.Machine

/-! ## The flags of a comparison -/

section Comparison

variable (p : Flags) (r m : Byte)

theorem compareFlags_c_iff : (compareFlags p r m).c = true ↔ m.toNat ≤ r.toNat :=
  decide_eq_true_iff

theorem compareFlags_z_iff : (compareFlags p r m).z = true ↔ r.toNat = m.toNat :=
  decide_eq_true_iff.trans BitVec.toNat_eq

/-- N is bit 7 of the difference mod 256, not the signed order. -/
theorem compareFlags_n_iff : (compareFlags p r m).n = true ↔ 128 ≤ (r.toNat + 256 - m.toNat) % 256 := by
  have hm := m.isLt
  have hdiff : (r - m).toNat = (r.toNat + 256 - m.toNat) % 256 := by
    rw [BitVec.toNat_sub]
    omega
  exact hdiff ▸ msb_iff (r - m)

end Comparison

/-- A step that only sets the flags by the comparison of a register with the operand orders them unsigned. -/
theorem orders_of_exec {i : Instr} {s : State} {r m : Byte} (h : exec i s = .next (s.setP (compareFlags s.p r m))) :
    ∃ t, exec i s = .next t ∧ (t.p.c = true ↔ m.toNat ≤ r.toNat) ∧ (t.p.z = true ↔ r.toNat = m.toNat) ∧
      (t.p.n = true ↔ 128 ≤ (r.toNat + 256 - m.toNat) % 256) ∧ Frame s t [] [.n, .z, .c] [] :=
  ⟨_, h, compareFlags_c_iff _ _ _, compareFlags_z_iff _ _ _, compareFlags_n_iff _ _ _,
    (Frame.refl s).setP (getFlag_compareFlags _ _ _)⟩

/-! ## The instructions (R170 to R172) -/

/-- Settles O31: each sets the flags by `compareFlags` of its register and the operand, and nothing else is written. -/
theorem comparesOrderUnsigned : Obligations.ComparesOrderUnsigned := by
  unfold Obligations.ComparesOrderUnsigned
  refine ⟨⟨.of_opcode (fun _ => rfl) fun _ => rfl, fun src s => ?cmp⟩,
    ⟨.of_opcode (fun _ => rfl) fun _ => rfl, fun src s => ?cpx⟩,
    ⟨.of_opcode (fun _ => rfl) fun _ => rfl, fun src s => ?cpy⟩⟩
  case cmp => exact orders_of_exec (exec_cmp s src)
  case cpx => exact orders_of_exec (exec_cpx s src)
  case cpy => exact orders_of_exec (exec_cpy s src)

end Sys2Proof.Machine
end

section
/-! PROOFS. The statement of 46_branch.md: the branch target as arithmetic on PC and the signed displacement, and the
shape of a branch, which each of the eight instructions has with its own condition on the flags. -/

namespace Sys2Proof.Machine

/-! ## The target (R112, R180) -/

/-- R8: sign extension keeps the signed value of a byte, here mod 2^16. -/
theorem sext16_toNat (d : Byte) : ((sext16 d).toNat : Int) = d.toInt % 65536 := by
  have hofInt : (sext16 d).toNat = (d.toInt % 65536).toNat := BitVec.toNat_ofInt d.toInt
  rw [hofInt, Int.toNat_of_nonneg (Int.emod_nonneg _ (by decide))]

/-- A displacement moves an address by its signed value and wraps at both ends of memory. -/
theorem add_sext16_toNat (a : Addr) (d : Byte) :
    ((a + sext16 d).toNat : Int) = ((a.toNat : Int) + d.toInt) % 65536 :=
  calc ((a + sext16 d).toNat : Int)
    _ = ((a.toNat : Int) + (sext16 d).toNat) % 65536 := by
      rw [BitVec.toNat_add, Int.natCast_mod, Int.natCast_add]
      rfl
    _ = ((a.toNat : Int) + d.toInt) % 65536 := by rw [sext16_toNat, Int.add_emod_emod]

theorem branchIf_pc_of_false {cond : Bool} (d : Byte) (s : State) (h : cond = false) :
    (branchIf cond d s).pc = s.pc := by
  rw [branchIf_pc, h]
  rfl

theorem branchIf_pc_of_true {cond : Bool} (d : Byte) (s : State) (h : cond = true) :
    ((branchIf cond d s).pc.toNat : Int) = ((s.pc.toNat : Int) + d.toInt) % 65536 := by
  rw [branchIf_pc, if_pos h, add_sext16_toNat]

/-! ## The instructions (R181 to R188) -/

/-- An instruction whose meaning is `branchIf` of its condition on the flags is a conditional branch. -/
theorem Branches.of_branchIf {k : Byte → Instr} {opcode : Byte} {cond : Flags → Bool}
    (hencode : ∀ d, encode (k d) = some [opcode, d])
    (hexec : ∀ s d, exec (k d) s = .next (branchIf (cond s.p) d s)) :
    Branches k opcode cond :=
  ⟨hencode, fun d s => ⟨_, hexec s d, branchIf_frame s _ d, branchIf_pc_of_false d s, branchIf_pc_of_true d s⟩⟩

/-- Settles O32: each is `branchIf` of its condition. -/
theorem branchesMovePcByTheSignedDisplacement : Obligations.BranchesMovePcByTheSignedDisplacement := by
  unfold Obligations.BranchesMovePcByTheSignedDisplacement
  refine ⟨?bcc, ?bcs, ?beq, ?bne, ?bmi, ?bpl, ?bvc, ?bvs⟩
  case bcc => exact .of_branchIf (fun _ => rfl) exec_bcc
  case bcs => exact .of_branchIf (fun _ => rfl) exec_bcs
  case beq => exact .of_branchIf (fun _ => rfl) exec_beq
  case bne => exact .of_branchIf (fun _ => rfl) exec_bne
  case bmi => exact .of_branchIf (fun _ => rfl) exec_bmi
  case bpl => exact .of_branchIf (fun _ => rfl) exec_bpl
  case bvc => exact .of_branchIf (fun _ => rfl) exec_bvc
  case bvs => exact .of_branchIf (fun _ => rfl) exec_bvs

end Sys2Proof.Machine
end

section
/-! PROOFS. The statements of 47_stack.md: one push and one pull, any number of pushes, and the four stack instructions.
The places of successive pushes are told apart by SP, mod 256, so that the 257th is the first to fall on another's. -/

namespace Sys2Proof.Machine

/-! ## One push and one pull (R200) -/

section OneByte

variable (s : State) (v : Byte)

theorem State.push_read_self : (s.push v).read (stackAddr s.sp) = v := by
  rw [State.push_read, if_pos rfl]

theorem State.push_sp_toNat : (s.push v).sp.toNat = (s.sp.toNat + 255) % 256 := by
  rw [State.push_sp]
  bv_omega

theorem State.afterPull_sp_toNat : s.afterPull.sp.toNat = (s.sp.toNat + 1) % 256 :=
  BitVec.toNat_add s.sp 1

theorem State.push_frame : Frame s (s.push v) [.sp] [] [stackAddr s.sp] :=
  (Frame.refl s).push (List.mem_singleton.2 rfl)

/-- A pull reads where the push before it stored: SP - 1 + 1 is SP again, wherever it wraps. -/
@[simp] theorem State.push_pulled : (s.push v).pulled = v := by
  rw [State.pulled_eq, State.push_sp, BitVec.sub_add_cancel, State.push_read_self]

theorem State.push_afterPull_sp : (s.push v).afterPull.sp = s.sp := by
  rw [State.afterPull_sp, State.push_sp, BitVec.sub_add_cancel]

end OneByte

/-- Settles O33: a push is one write and a decrement of SP, a pull one read and an increment. -/
theorem pushAndPullStayInPageOne : Obligations.PushAndPullStayInPageOne := by
  unfold Obligations.PushAndPullStayInPageOne
  exact fun s v sp => ⟨stackAddr_toNat sp, s.push_read_self v, s.push_sp_toNat v, s.push_frame v, s.pulled_eq,
    s.afterPull_sp_toNat, (Frame.refl s).afterPull⟩

/-! ## Any number of pushes (R200) -/

/-- SP before the k-th push of those after the first is SP before the (k + 1)-th of all. -/
theorem sub_one_sub_ofNat (sp : Byte) (k : Nat) : sp - 1 - BitVec.ofNat 8 k = sp - BitVec.ofNat 8 (k + 1) := by
  bv_omega

/-- Fewer than 256 further pushes do not come back to a place. -/
theorem ne_sub_ofNat_succ (sp : Byte) {k : Nat} (hk : k < 255) : sp ≠ sp - BitVec.ofNat 8 (k + 1) := by
  bv_omega

theorem foldl_push_sp (vs : List Byte) (s : State) :
    (vs.foldl State.push s).sp = s.sp - BitVec.ofNat 8 vs.length := by
  induction vs generalizing s with
  | nil => exact (BitVec.sub_zero s.sp).symm
  | cons w vs ih => rw [List.foldl_cons, ih, State.push_sp, sub_one_sub_ofNat, List.length_cons]

/-- Pushes leave every byte that is not the place of one of them. -/
theorem foldl_push_read_of_ne {vs : List Byte} {s : State} {a : Addr}
    (h : ∀ k < vs.length, a ≠ stackAddr (s.sp - BitVec.ofNat 8 k)) : (vs.foldl State.push s).read a = s.read a := by
  induction vs generalizing s with
  | nil => rfl
  | cons w vs ih =>
    have hfirst : a ≠ stackAddr s.sp := by simpa using h 0 (Nat.zero_lt_succ _)
    have hrest : ∀ k < vs.length, a ≠ stackAddr ((s.push w).sp - BitVec.ofNat 8 k) := fun k hk => by
      rw [State.push_sp, sub_one_sub_ofNat]
      exact h (k + 1) (Nat.succ_lt_succ hk)
    rw [List.foldl_cons, ih hrest, State.push_read, if_neg hfirst]

/-- Of up to 256 pushes each byte stays where it was stored: no later one is to its place. -/
theorem foldl_push_read_of_getElem? {vs : List Byte} {s : State} {k : Nat} {v : Byte} (hlen : vs.length ≤ 256)
    (hv : vs[k]? = some v) : (vs.foldl State.push s).read (stackAddr (s.sp - BitVec.ofNat 8 k)) = v := by
  induction vs generalizing s k with
  | nil => cases hv
  | cons w vs ih =>
    rw [List.length_cons] at hlen
    rw [List.foldl_cons]
    cases k with
    | zero =>
      obtain rfl : w = v := Option.some.inj hv
      have hlater : ∀ j < vs.length, stackAddr s.sp ≠ stackAddr ((s.push w).sp - BitVec.ofNat 8 j) := fun j hj => by
        rw [State.push_sp, sub_one_sub_ofNat]
        exact mt stackAddr_inj.1 (ne_sub_ofNat_succ s.sp (by omega))
      rw [BitVec.sub_zero, foldl_push_read_of_ne hlater, State.push_read_self]
    | succ k =>
      rw [← sub_one_sub_ofNat]
      exact ih (s := s.push w) (by omega) hv

/-- R200: the stack is page 1. -/
theorem stackAddr_toNat_div (sp : Byte) : (stackAddr sp).toNat / 256 = 1 := by
  have := sp.isLt
  rw [stackAddr_toNat]
  omega

/-- Settles O34: by induction on the bytes pushed. -/
theorem pushesWrapWithinPageOne : Obligations.PushesWrapWithinPageOne := by
  unfold Obligations.PushesWrapWithinPageOne
  refine fun vs s => ⟨foldl_push_sp vs s, fun a ha => foldl_push_read_of_ne fun k _ => ?_,
    fun hlen k v => foldl_push_read_of_getElem? hlen⟩
  rintro rfl
  exact ha (stackAddr_toNat_div _)

/-! ## The instructions (R201 to R204) -/

/-- R29: the flags restored from a byte are those of the byte. -/
theorem flagsOfByte_restoreStatus (v : Byte) : FlagsOfByte (restoreStatus v) v :=
  ⟨rfl, rfl, rfl, rfl, rfl, rfl⟩

/-- Settles O35: each is one push or one pull; its frame is that of the instruction's writers. -/
theorem stackInstructionsMoveOneByte : Obligations.StackInstructionsMoveOneByte := by
  unfold Obligations.StackInstructionsMoveOneByte
  refine ⟨⟨rfl, fun s => ?pha⟩, ⟨rfl, fun s => ?php⟩, ⟨rfl, fun s => ?pla⟩, ⟨rfl, fun s => ?plp⟩⟩
  case pha => exact ⟨_, exec_pha s, s.push_read_self s.a, rfl, s.push_frame s.a⟩
  case php =>
    refine ⟨_, exec_php s, ?_, ?_, ?_, rfl, s.push_frame _⟩ <;> rw [State.push_read_self]
    · exact flagsOfByte_pushedStatus s.p true
    · exact pushedStatus_getLsbD_bit s.p true .b
    · exact pushedStatus_getLsbD_bit s.p true .u
  case pla => exact ⟨_, exec_pla s, rfl, nz_setNZ _ _, rfl, frame_of_exec (exec_pla s) nofun⟩
  case plp =>
    have hframe : Frame s (s.afterPull.setP (restoreStatus s.pulled)) [.sp] [.n, .v, .d, .i, .z, .c] [] :=
      frame_of_exec (exec_plp s) nofun
    exact ⟨_, exec_plp s, flagsOfByte_restoreStatus _, rfl,
      hframe.mono (List.Subset.refl _) (by decide) (List.Subset.refl _)⟩

/-- Settles O36: the pull returns the byte pushed (push_pulled), and restoring a pushed status byte gives the flags. -/
theorem pullUndoesPush : Obligations.PullUndoesPush := by
  unfold Obligations.PullUndoesPush
  refine fun s => ⟨⟨_, _, exec_pha s, exec_pla _, ?a, ?phaSp⟩, ⟨_, _, exec_php s, exec_plp _, ?p, ?phpSp⟩⟩
  case a => exact s.push_pulled s.a
  case p => rw [State.setP_p, State.push_pulled, restoreStatus_pushedStatus]
  case phaSp | phpSp => exact State.push_afterPull_sp s _

end Sys2Proof.Machine
end

section
/-! PROOFS. The statements of 48_transfer_incdec.md: a transfer or a count sets its register, or the byte at EA, to a
result and N and Z by `setNZ` of it; TXS copies without a flag, and NOP answers its state. -/

namespace Sys2Proof.Machine

/-! ## Counting mod 256 -/

theorem add_one_toNat (v : Byte) : (v + 1).toNat = (v.toNat + 1) % 256 :=
  BitVec.toNat_add v 1

theorem sub_one_toNat (v : Byte) : (v - 1).toNat = (v.toNat + 255) % 256 := by
  bv_omega

/-! ## Transfers, and counts of a register (R210 to R219) -/

/-- An instruction that gives one register a result, and the flags by `setNZ` of it, transfers that value. Where the
writers' table lists the register and N and Z, the instruction's frame is read off it (frame_of_exec). -/
theorem Transfers.of_setNZ {i : Instr} {opcode : Byte} {value : State → Nat} {dst : Reg} {next : State → State}
    {result : State → Byte} (hencode : encode i = some [opcode]) (hexec : ∀ s, exec i s = .next (next s))
    (hvalue : ∀ s, (result s).toNat = value s)
    (hreg : ∀ s, (next s).reg dst = (result s).toNat := by exact fun _ => rfl)
    (hflags : ∀ s, (next s).p = s.p.setNZ (result s) := by exact fun _ => rfl)
    (hwriters : ∀ s, i.writesRegs = [dst] ∧ i.writesFlags = [.n, .z] ∧ i.storedAt s = [] := by
      exact fun _ => ⟨rfl, rfl, rfl⟩)
    (hlegal : ∀ op, i ≠ .illegal op := by exact nofun) : Transfers i opcode value dst := by
  refine ⟨hencode, fun s => ⟨next s, hexec s, (hreg s).trans (hvalue s), ?z, ?n, ?frame⟩⟩
  case z => rw [hflags, ← hvalue]; exact (nz_setNZ s.p (result s)).1
  case n => rw [hflags, ← hvalue]; exact (nz_setNZ s.p (result s)).2
  case frame =>
    obtain ⟨hregs, hflagList, hstored⟩ := hwriters s
    have hframe := frame_of_exec (hexec s) hlegal
    rwa [hregs, hflagList, hstored] at hframe

/-- Settles O37: each sets its register and the flags by `setNZ` of the same byte; the counts wrap mod 256. -/
theorem transfersAndCountsSetNZ : Obligations.TransfersAndCountsSetNZ := by
  unfold Obligations.TransfersAndCountsSetNZ
  refine ⟨?tax, ?tay, ?tsx, ?txa, ?tya, ?inx, ?iny, ?dex, ?dey⟩
  case tax => exact .of_setNZ rfl exec_tax fun _ => rfl
  case tay => exact .of_setNZ rfl exec_tay fun _ => rfl
  case tsx => exact .of_setNZ rfl exec_tsx fun _ => rfl
  case txa => exact .of_setNZ rfl exec_txa fun _ => rfl
  case tya => exact .of_setNZ rfl exec_tya fun _ => rfl
  case inx => exact .of_setNZ rfl exec_inx fun s => add_one_toNat s.x
  case iny => exact .of_setNZ rfl exec_iny fun s => add_one_toNat s.y
  case dex => exact .of_setNZ rfl exec_dex fun s => sub_one_toNat s.x
  case dey => exact .of_setNZ rfl exec_dey fun s => sub_one_toNat s.y

/-- Settles O38: TXS is one update of SP, and NOP none. -/
theorem txsAndNopWriteNoFlag : Obligations.TxsAndNopWriteNoFlag := by
  unfold Obligations.TxsAndNopWriteNoFlag
  exact ⟨⟨rfl, fun s => ⟨_, exec_txs s, rfl, (Frame.refl s).setSp⟩⟩, ⟨rfl, exec_nop⟩⟩

/-! ## Counts of a byte of memory (R220, R221) -/

/-- R117: the byte at EA is the computation's result. -/
theorem modifyMemory_read_self (m : MemOperand) (f : Flags → Byte → Byte × Flags) (s : State) :
    (modifyMemory m f s).read (resolve m s) = (f s.p (s.read (resolve m s))).1 := by
  rw [modifyMemory_read, if_pos rfl]

/-- Settles O39: each is one `modifyMemory` of a count whose flags are `setNZ` of its result. -/
theorem incAndDecCountMemoryModulo256 : Obligations.IncAndDecCountMemoryModulo256 := by
  unfold Obligations.IncAndDecCountMemoryModulo256
  refine ⟨⟨.of_opcode (fun _ => rfl) fun _ => rfl, fun m s => ⟨_, exec_inc s m, ?inc⟩⟩,
    ⟨.of_opcode (fun _ => rfl) fun _ => rfl, fun m s => ⟨_, exec_dec s m, ?dec⟩⟩⟩
  case inc =>
    rw [modifyMemory_read_self]
    exact ⟨add_one_toNat _, nz_setNZ _ _, frame_of_exec (exec_inc s m) nofun⟩
  case dec =>
    rw [modifyMemory_read_self]
    exact ⟨sub_one_toNat _, nz_setNZ _ _, frame_of_exec (exec_dec s m) nofun⟩

end Sys2Proof.Machine
end

section
/-! PROOFS. The statements of 49_flags_control.md: the flag instructions, the jumps, the subroutine call and its return,
BRK and RTI, and which instructions can set V. A call or an entry meets its return at the same two or three bytes of the
stack, because SP comes back to its value mod 256. -/

namespace Sys2Proof.Machine

/-! ## Flag instructions (R230 to R236) -/

/-- An instruction that sets one stored flag, and does nothing else. -/
theorem SetsFlag.of_setFlag {i : Instr} {opcode : Byte} {f : FlagName} {b : Bool} (hf : f ∈ storedFlags)
    (hencode : encode i = some [opcode]) (hexec : ∀ s, exec i s = .next (s.setP (s.p.setFlag f b))) :
    SetsFlag i opcode f b := by
  refine ⟨hencode, fun s => ⟨_, hexec s, ?_, setFlag_frame s f b⟩⟩
  rw [State.setP_p, Flags.getFlag_setFlag, if_pos ⟨rfl, hf⟩]

/-- Settles O40: each is the host's SetFlag of its flag. -/
theorem flagInstructionsWriteOneFlag : Obligations.FlagInstructionsWriteOneFlag := by
  unfold Obligations.FlagInstructionsWriteOneFlag
  refine ⟨?clc, ?sec, ?cli, ?sei, ?cld, ?sed, ?clv⟩
  case clc => exact .of_setFlag (by decide) rfl exec_clc
  case sec => exact .of_setFlag (by decide) rfl exec_sec
  case cli => exact .of_setFlag (by decide) rfl exec_cli
  case sei => exact .of_setFlag (by decide) rfl exec_sei
  case cld => exact .of_setFlag (by decide) rfl exec_cld
  case sed => exact .of_setFlag (by decide) rfl exec_sed
  case clv => exact .of_setFlag (by decide) rfl exec_clv

/-! ## JMP (R240) -/

/-- R108: the address after the pointer's in its page is the next one, or the page's first after its last. -/
theorem samePageNext_toNat_eq_ite (p : Addr) :
    (samePageNext p).toNat = if p.toNat % 256 = 255 then p.toNat - 255 else p.toNat + 1 := by
  rw [samePageNext_toNat]
  split <;> omega

/-- Settles O41: PC is the effective address, in the indirect form the pair at the pointer within its page. -/
theorem jmpLoadsPc : Obligations.JmpLoadsPc := by
  unfold Obligations.JmpLoadsPc
  refine ⟨.of_opcode (fun _ => rfl) fun _ => rfl, fun m s => ⟨_, exec_jmp s m, rfl, (Frame.refl s).setPc⟩,
    fun p s => ⟨_, exec_jmp s (.ind p), samePageNext p, samePageNext_toNat_eq_ite p, ?_⟩⟩
  rw [State.setPc_pc, resolve_ind, State.readPair_toNat]

/-! ## JSR and RTS (R241, R242) -/

theorem hiByte_loByte_toNat (a : Addr) : 256 * (hiByte a).toNat + (loByte a).toNat = a.toNat := by
  rw [← joinBytes_toNat, joinBytes_hiByte_loByte]

/-- The second of two pushes does not fall on the first. -/
theorem stackAddr_ne_sub_one (sp : Byte) : stackAddr sp ≠ stackAddr (sp - 1) :=
  mt stackAddr_inj.1 (by bv_omega)

section Return

variable (s : State)

/-- R241: where a return address stands on the stack, high byte first. -/
theorem pushReturn_read_hi (ret : Addr) :
    ((s.push (hiByte ret)).push (loByte ret)).read (stackAddr s.sp) = hiByte ret := by
  rw [State.push_read, State.push_sp, if_neg (stackAddr_ne_sub_one s.sp), State.push_read_self]

theorem pushReturn_read_lo (ret : Addr) :
    ((s.push (hiByte ret)).push (loByte ret)).read (stackAddr (s.sp - 1)) = loByte ret :=
  (s.push (hiByte ret)).push_read_self (loByte ret)

theorem pushReturn_sp (ret : Addr) : ((s.push (hiByte ret)).push (loByte ret)).sp = s.sp - 2 := by
  rw [State.push_sp, State.push_sp]
  bv_omega

/-- R200: the second of two pulls. -/
theorem State.afterPull_pulled : s.afterPull.pulled = s.read (stackAddr (s.sp + 2)) := by
  rw [State.pulled_eq, State.afterPull_sp, BitVec.add_assoc]
  rfl

theorem State.afterPull_afterPull_sp : s.afterPull.afterPull.sp = s.sp + 2 :=
  BitVec.add_assoc s.sp 1 1

end Return

/-- Settles O42: the two pushes of the address before PC, and the jump. -/
theorem jsrPushesItsLastByteAddress : Obligations.JsrPushesItsLastByteAddress := by
  unfold Obligations.JsrPushesItsLastByteAddress
  refine ⟨fun _ => rfl, fun a s => ⟨_, exec_jsr s a, rfl, pushReturn_sp s _, ?bytes, ?frame⟩⟩
  case bytes =>
    rw [State.setPc_read, State.setPc_read, pushReturn_read_hi, pushReturn_read_lo, hiByte_loByte_toNat]
    bv_omega
  case frame =>
    have hpushes := (pushReturn_frame s (s.pc - 1)).mono (regs' := [.pc, .sp]) (by simp) (List.Subset.refl _)
      (List.Subset.refl _)
    exact hpushes.setPc

/-- Settles O43: two pulls, low byte first, and one more than their pair. -/
theorem rtsReturnsPastThePulledAddress : Obligations.RtsReturnsPastThePulledAddress := by
  unfold Obligations.RtsReturnsPastThePulledAddress
  refine ⟨rfl, fun s => ⟨_, exec_rts s, s.afterPull_afterPull_sp, ?pc, (Frame.refl s).afterPull.afterPull.setPc⟩⟩
  case pc =>
    rw [State.setPc_pc, BitVec.toNat_add, joinBytes_toNat, State.afterPull_pulled, State.pulled_eq]
    rfl

/-- Settles O44: the handler's SP leads RTS to the two bytes that JSR pushed, and from them past JSR's last byte. -/
theorem rtsReturnsBehindItsJsr : Obligations.RtsReturnsBehindItsJsr := by
  unfold Obligations.RtsReturnsBehindItsJsr
  refine fun a s => ⟨_, exec_jsr s a, fun h hsp hhi hlo => ?_⟩
  rw [State.setPc_sp, pushReturn_sp] at hsp
  rw [State.setPc_read, pushReturn_read_hi] at hhi
  rw [State.setPc_read, pushReturn_read_lo] at hlo
  have hfirst : h.sp + 1 = s.sp - 1 := by bv_omega
  have hsecond : h.sp + 2 = s.sp := by bv_omega
  refine ⟨_, exec_rts h, ?pc, h.afterPull_afterPull_sp.trans hsecond⟩
  rw [State.setPc_pc, State.afterPull_pulled, State.pulled_eq, hfirst, hsecond, hhi, hlo, joinBytes_hiByte_loByte,
    BitVec.sub_add_cancel]

/-! ## BRK and RTI (R243, R244) -/

/-- Settles O45: BRK is interrupt entry through the IRQ vector, which I does not hold back. -/
theorem brkEntersWithTheBreakBit : Obligations.BrkEntersWithTheBreakBit := by
  unfold Obligations.BrkEntersWithTheBreakBit
  exact ⟨rfl, fun s => ⟨_, exec_brk s, entered_enter s _ Config.irqVector true (by decide) (by decide),
    s.enter_nmiPending _ _ _⟩⟩

section ReturnFromInterrupt

variable (s : State)

theorem State.rti_sp_eq_add : s.returnFromInterrupt.sp = s.sp + 3 := by
  rw [State.rti_sp]
  bv_omega

theorem State.rti_pc_eq_add : s.returnFromInterrupt.pc =
    joinBytes (s.read (stackAddr (s.sp + 3))) (s.read (stackAddr (s.sp + 2))) := by
  have h2 : s.sp + 1 + 1 = s.sp + 2 := by bv_omega
  have h3 : s.sp + 2 + 1 = s.sp + 3 := by bv_omega
  rw [State.rti_pc, h2, h3]

end ReturnFromInterrupt

/-- Settles O46: three pulls, the status before the two bytes of PC. -/
theorem rtiRestoresStatusThenPc : Obligations.RtiRestoresStatusThenPc := by
  unfold Obligations.RtiRestoresStatusThenPc
  refine ⟨rfl, fun s => ⟨_, exec_rti s, ?status, ?pc, s.rti_sp_eq_add, ?frame⟩⟩
  case status => exact s.rti_p ▸ flagsOfByte_restoreStatus _
  case pc => rw [State.rti_pc_eq_add, joinBytes_toNat]
  case frame => exact (returnFromInterrupt_frame s).mono (by simp) (by decide) (List.Subset.refl _)

/-! ## What sets V (R236) -/

/-- The table's instructions that write V: CLV and the five that may set it. -/
theorem eq_of_v_mem_writesFlags : ∀ i : Instr, FlagName.v ∈ i.writesFlags →
    ((∃ src, i = .adc src ∨ i = .sbc src ∨ i = .bit src) ∨ i = .plp ∨ i = .rti) ∨ i = .clv
  | .adc src, _ => .inl (.inl ⟨src, .inl rfl⟩)
  | .sbc src, _ => .inl (.inl ⟨src, .inr (.inl rfl)⟩)
  | .bit src, _ => .inl (.inl ⟨src, .inr (.inr rfl)⟩)
  | .plp, _ => .inl (.inr (.inl rfl))
  | .rti, _ => .inl (.inr (.inr rfl))
  | .clv, _ => .inr rfl
  | .lda _, h | .ldx _, h | .ldy _, h | .sta _, h | .stx _, h | .sty _, h | .and _, h | .ora _, h | .eor _, h
  | .asl _, h | .lsr _, h | .rol _, h | .ror _, h | .cmp _, h | .cpx _, h | .cpy _, h
  | .bcc _, h | .bcs _, h | .beq _, h | .bne _, h | .bmi _, h | .bpl _, h | .bvc _, h | .bvs _, h
  | .pha, h | .pla, h | .php, h
  | .tax, h | .tay, h | .tsx, h | .txa, h | .txs, h | .tya, h | .inx, h | .iny, h | .dex, h | .dey, h
  | .inc _, h | .dec _, h | .clc, h | .sec, h | .cli, h | .sei, h | .cld, h | .sed, h
  | .jmp _, h | .jsr _, h | .rts, h | .brk, h | .nop, h | .illegal _, h => by simp [Instr.writesFlags] at h

/-- Settles O58: by the flag-writers table (O56) V is written by six instructions, and CLV clears it. -/
theorem overflowIsSetByFiveInstructionsOnly : Obligations.OverflowIsSetByFiveInstructionsOnly := by
  unfold Obligations.OverflowIsSetByFiveInstructionsOnly
  intro i s t h hclear hset
  obtain ⟨hflag, -⟩ := noFlagOutsideTheWritersTableChanges i s t h
  have hwrites : FlagName.v ∈ i.writesFlags := by
    by_contra hv
    have hkept : t.p.v = s.p.v := hflag .v hv
    simp [hkept, hclear] at hset
  refine (eq_of_v_mem_writesFlags i hwrites).resolve_right ?_
  rintro rfl
  rw [exec_clv] at h
  injection h with h
  simp [← h] at hset

end Sys2Proof.Machine
end

section
/-! PROOFS. The statements of 60_exceptions.md: the cases of a step and what each does (interrupt entry, the trap, a
legal instruction), the return from an interrupt, the ends of Execute, and the invariant that every step keeps. -/

namespace Sys2Proof.Machine

/-! ## The boundary (R260) -/

/-- R264: an IRQ is not due where the line is not asserted or I masks it. -/
theorem irq_masked_iff (s : State) : (s.irqLine && !s.p.i) = false ↔ s.irqLine = false ∨ s.p.i = true := by
  rw [Bool.and_eq_false_iff, Bool.not_eq_false']

/-- A boundary in Running has an NMI latched, an IRQ due, or no interrupt due. -/
theorem State.boundary_cases {s : State} (hr : s.run = .running) :
    s.nmiPending = true ∨ (s.nmiPending = false ∧ s.irqLine = true ∧ s.p.i = false) ∨ s.Ready := by
  cases hn : s.nmiPending with
  | true => exact .inl rfl
  | false =>
    by_cases hi : (s.irqLine && !s.p.i) = false
    · exact .inr (.inr ⟨hr, hn, hi⟩)
    · rw [irq_masked_iff, not_or, Bool.not_eq_false, Bool.not_eq_true] at hi
      exact .inr (.inl ⟨rfl, hi⟩)

/-- Settles O7: a case of the step each, and the last one is a boundary at which no interrupt is due. -/
theorem stepTakesOneOfFiveCases : Obligations.StepTakesOneOfFiveCases := by
  unfold Obligations.StepTakesOneOfFiveCases
  exact fun s => ⟨step_notReset, fun _ => step_halted, step_nmi, step_irq,
    fun hr hn hi => step_ready ⟨hr, hn, (irq_masked_iff s).2 hi⟩⟩

/-! ## Interrupt entry (R261 to R265) -/

/-- Settles O8: the step is R263's entry through the IRQ vector, which keeps both inputs. -/
theorem irqIsEnteredWhileUnmasked : Obligations.IrqIsEnteredWhileUnmasked := by
  unfold Obligations.IrqIsEnteredWhileUnmasked
  exact fun s hr hn hl hi => ⟨_, step_irq hr hn hl hi,
    entered_enter s s.pc Config.irqVector false (by decide) (by decide),
    (s.enter_nmiPending ..).trans hn, (s.enter_irqLine ..).trans hl⟩

/-- Settles O9: the entry clears the latch and sets I, so that after it neither interrupt is due. -/
theorem nmiIsEnteredWhateverTheMaskAndTheIrqWaits : Obligations.NmiIsEnteredWhateverTheMaskAndTheIrqWaits := by
  unfold Obligations.NmiIsEnteredWhateverTheMaskAndTheIrqWaits
  intro s hr hn
  obtain ⟨-, -, -, -, hmask, -, -, -, -, -, hrun⟩ := entered_enterNmi s
  have hlatch : s.enterNmi.nmiPending = false := State.enter_nmiPending ..
  exact ⟨_, step_nmi hr hn, entered_enterNmi s, hlatch, hrun.trans hr, hlatch, (irq_masked_iff _).2 (.inr hmask)⟩

theorem fetched_cli {s : State} (h : s.read s.pc = 0x58) : s.fetched = .cli := by
  rw [State.fetched, h]
  rfl

/-- Settles O10: CLI writes I alone, so that the next boundary has the IRQ still asserted and no longer masked (O8). -/
theorem irqFollowsCliWithoutDelay : Obligations.IrqFollowsCliWithoutDelay := by
  unfold Obligations.IrqFollowsCliWithoutDelay
  intro s hready hl hop
  have ⟨hr, hn, _⟩ := hready
  have hstep : step s = .next ((s.pastInstr .cli).setP { s.p with i := false }) := by
    rw [step_ready hready, State.dispatch, fetched_cli hop, exec_cli, State.pastInstr_p]
  obtain ⟨u, hu, hentered, -⟩ := irqIsEnteredWhileUnmasked ((s.pastInstr .cli).setP { s.p with i := false }) hr hn hl rfl
  exact ⟨_, u, hstep, rfl, rfl, hu, hentered⟩

/-! ## Return from an interrupt (R267) -/

/-- Settles O47: the handler's SP leads RTI to the three bytes that the entry pushed. -/
theorem rtiResumesWhatEntryInterrupted : Obligations.RtiResumesWhatEntryInterrupted := by
  unfold Obligations.RtiResumesWhatEntryInterrupted
  intro s t h ret vec b hentered hsp hkept
  obtain ⟨hhi, hlo, hstatus, htsp, -⟩ := hentered
  rw [htsp] at hsp
  have hfirst : h.sp + 1 = s.sp - 2 := by bv_omega
  have hsecond : h.sp + 2 = s.sp - 1 := by bv_omega
  have hthird : h.sp + 3 = s.sp := by bv_omega
  refine ⟨_, exec_rti h, ?pc, ?status, ?sp⟩
  case pc =>
    rw [State.rti_pc_eq_add, hsecond, hthird, hkept _ (by simp), hkept _ (by simp), hhi, hlo, joinBytes_hiByte_loByte]
  case status => rw [State.rti_p, hfirst, hkept _ (by simp), hstatus, restoreStatus_pushedStatus]
  case sp => rw [State.rti_sp_eq_add, hthird]

/-! ## The trap and the legal instructions (R251, R252, R275) -/

theorem raiseIllegal_pastInstr (s : State) (op : Byte) :
    (s.pastInstr (.illegal op)).raiseIllegal op ((s.pastInstr (.illegal op)).pc - 1) =
      (s.setPc (s.pc + 1)).setRun (.halted (.illegalOpcode op s.pc)) := by
  have hpc : (s.pastInstr (.illegal op)).pc - 1 = s.pc := BitVec.add_sub_cancel s.pc 1
  rw [hpc]
  rfl

/-- Settles O11: an ILLEGAL byte is fetched as itself, and its meaning records the fault. -/
theorem illegalByteHaltsAndNothingElse : Obligations.IllegalByteHaltsAndNothingElse := by
  unfold Obligations.IllegalByteHaltsAndNothingElse
  refine ⟨fun s hready hop => ⟨_, ?_, rfl, step_halted rfl⟩, fun op s => ⟨_, exec_illegal s op, rfl⟩⟩
  rw [step_ready hready, State.dispatch, fetched_illegal hop, exec_illegal, raiseIllegal_pastInstr]

/-- Only ILLEGAL changes the run state. -/
theorem run_of_exec {i : Instr} {s t : State} (h : exec i s = .next t) (hi : ∀ op, i ≠ .illegal op) :
    t.run = s.run := by
  obtain ⟨-, -, -, -, -, hrun⟩ := frame_of_exec h hi
  exact hrun

/-- Settles O12: every meaning answers a next state, and a legal byte is never fetched as ILLEGAL. -/
theorem everyInstructionCompletesAndLegalOnesNeverHalt : Obligations.EveryInstructionCompletesAndLegalOnesNeverHalt := by
  unfold Obligations.EveryInstructionCompletesAndLegalOnesNeverHalt
  have hexec : ∀ (i : Instr) (s : State), ∃ t, exec i s = .next t ∧ ((∀ op, i ≠ .illegal op) → t.run = s.run) := by
    intro i s
    obtain ⟨t, ht⟩ := exec_completes i s
    exact ⟨t, ht, run_of_exec ht⟩
  refine ⟨hexec, fun s hready hlegal => ?_⟩
  obtain ⟨t, ht, hrun⟩ := hexec s.fetched (s.pastInstr s.fetched)
  have ⟨hr, _⟩ := hready
  exact ⟨t, (step_ready hready).trans ht, (hrun (fetched_ne_illegal hlegal)).trans hr⟩

/-! ## Execute (R271, R272) -/

/-- R260: in Running every step answers a next state. -/
theorem step_completes {s : State} (hr : s.run = .running) : ∃ t, step s = .next t := by
  obtain hn | ⟨hn, hl, hi⟩ | hready := State.boundary_cases hr
  · exact ⟨_, step_nmi hr hn⟩
  · exact ⟨_, step_irq hr hn hl hi⟩
  · obtain ⟨t, ht⟩ := exec_completes s.fetched (s.pastInstr s.fetched)
    exact ⟨t, (step_ready hready).trans ht⟩

/-- R272: what the end of a run says of the state it ends in. -/
def RunEnd.Justified (stop : State → Bool) : RunEnd → Prop
  | .normal t    => t.run = .running ∧ stop t = true
  | .faulted f t => t.run = .halted f
  | .refused r t => t.run = .notReset ∧ r = .notStarted
  | .unfinished _ => True

section Execute

variable {stop : State → Bool} {fuel : Nat} {s t : State}

theorem execute_notReset (h : s.run = .notReset) : execute stop fuel s = .refused .notStarted s := by
  cases fuel <;> simp only [execute, h]

theorem execute_halted {f : Fault} (h : s.run = .halted f) : execute stop fuel s = .faulted f s := by
  cases fuel <;> simp only [execute, h]

theorem execute_stop (hr : s.run = .running) (hs : stop s = true) : execute stop fuel s = .normal s := by
  cases fuel <;> simp only [execute, hr, hs, if_true]

theorem execute_zero (hr : s.run = .running) (hs : stop s = false) : execute stop 0 s = .unfinished s := by
  rw [execute, hr, hs]
  rfl

theorem execute_succ (hr : s.run = .running) (hs : stop s = false) (ht : step s = .next t) :
    execute stop (fuel + 1) s = execute stop fuel t := by
  rw [execute, hr, hs, ht]
  rfl

end Execute

/-- Execute ends at once outside Running and where STOP holds. -/
theorem execute_justified_of_ended {stop : State → Bool} {fuel : Nat} {s : State}
    (h : ¬(s.run = .running ∧ stop s = false)) : (execute stop fuel s).Justified stop := by
  cases hr : s.run with
  | notReset => rw [execute_notReset hr]; exact ⟨hr, rfl⟩
  | halted f => rw [execute_halted hr]; exact hr
  | running =>
    have hs : stop s = true := by simpa [hr] using h
    rw [execute_stop hr hs]
    exact ⟨hr, hs⟩

/-- By induction on the bound: in Running with STOP false the step answers a next state, from which Execute goes on. -/
theorem execute_justified (stop : State → Bool) (fuel : Nat) (s : State) :
    (execute stop fuel s).Justified stop := by
  induction fuel generalizing s with
  | zero =>
    by_cases hgo : s.run = .running ∧ stop s = false
    · rw [execute_zero hgo.1 hgo.2]
      trivial
    · exact execute_justified_of_ended hgo
  | succ fuel ih =>
    by_cases hgo : s.run = .running ∧ stop s = false
    · obtain ⟨t, ht⟩ := step_completes hgo.1
      rw [execute_succ hgo.1 hgo.2 ht]
      exact ih t
    · exact execute_justified_of_ended hgo

/-- Settles O51: each end justifies its state. -/
theorem executeEndsInOneOfThreeWays : Obligations.ExecuteEndsInOneOfThreeWays := by
  unfold Obligations.ExecuteEndsInOneOfThreeWays
  intro stop fuel s t
  have hend := execute_justified stop fuel s
  refine ⟨fun h => ?normal, fun f h => ?faulted, fun r h => ?refused⟩
  all_goals
    rw [h] at hend
    exact hend

/-! ## The invariant (R251, log entry 2) -/

/-- Bus accesses keep the canonical form: a write is to a 16-bit address. -/
theorem Memory.wf_foldl_apply (accs : List Access) {m : Memory} (h : m.wf = true) :
    (accs.foldl Access.apply m).wf = true := by
  have hstep : ∀ m : Memory, m.wf = true → ∀ acc ∈ accs, (Access.apply m acc).wf = true := by
    intro m hm acc _
    cases acc with
    | read a => exact hm
    | write a v => exact Memory.wf_write_addr hm a v
  exact List.foldlRecOn (motive := fun m : Memory => m.wf = true) accs Access.apply h hstep

/-- A well-formed instruction records no other fault than that of an ILLEGAL byte. -/
theorem lawful_run_of_exec {i : Instr} {s t : State} (h : exec i s = .next t) (hwf : i.wellFormed = true)
    (hs : s.run.lawful = true) : t.run.lawful = true := by
  obtain ⟨op, rfl, rfl⟩ | ⟨-, -, -, -, -, hrun⟩ := exec_cases h
  · exact hwf
  · rw [hrun, hs]

/-- Settles O53: memory changes by bus writes only (O55); an entry keeps the run state, and a fetched instruction is
well-formed. -/
theorem stepKeepsTheInvariant : Obligations.StepKeepsTheInvariant := by
  unfold Obligations.StepKeepsTheInvariant
  intro s t hinv h
  obtain ⟨hmem, hrun⟩ := hinv
  have hwrites : t.mem = (stepAccesses s).foldl Access.apply s.mem := memoryChangesAreTheBusWrites.2 s t h
  refine ⟨hwrites ▸ Memory.wf_foldl_apply _ hmem, ?_⟩
  obtain ⟨-, ⟨-, rfl⟩ | ⟨-, -, -, rfl⟩ | ⟨-, hexec⟩⟩ := step_cases h
  · rw [State.enterNmi, State.enter_run, State.setNmi_run, hrun]
  · rw [State.enterIrq, State.enter_run, hrun]
  · exact lawful_run_of_exec hexec (fetched_wellFormed s) hrun

/-- R270: a step that answers no next state changes nothing. -/
theorem State.event_step_of_next {s t : State} (h : step s = .next t) : s.event .step = t := by
  rw [State.event, h]

theorem State.event_step_of_ne_running {s : State} (h : s.run ≠ .running) : s.event .step = s := by
  cases hr : s.run with
  | notReset => rw [State.event, step_notReset hr]
  | halted f => rw [State.event, step_halted hr]
  | running => exact absurd hr h

/-- Every host operation keeps the invariant. -/
theorem State.Inv.host {s : State} (h : s.Inv) (op : HostOp) : (s.host op).Inv := by
  obtain ⟨hmem, hrun⟩ := h
  cases op with
  | write a v => exact ⟨Memory.wf_write_addr hmem a v, hrun⟩
  | reset => exact ⟨hmem, rfl⟩
  | setFlag | setA | setX | setY | setSP | setPC | requestNmi | setIrq => exact ⟨hmem, hrun⟩

theorem State.Inv.event {s : State} (h : s.Inv) (e : Event) : (s.event e).Inv := by
  cases e with
  | host op => exact h.host op
  | step =>
    by_cases hr : s.run = .running
    · obtain ⟨t, ht⟩ := step_completes hr
      rw [State.event_step_of_next ht]
      exact stepKeepsTheInvariant s t h ht
    · rwa [State.event_step_of_ne_running hr]

/-- Settles O54: event by event, a step by O53. -/
theorem eventsKeepTheInvariant : Obligations.EventsKeepTheInvariant := by
  unfold Obligations.EventsKeepTheInvariant
  exact fun es _ hinv => List.foldlRecOn es State.event hinv fun _ h e _ => h.event e

end Sys2Proof.Machine
end

section
/-! PROOFS. The statement of 70_reset_and_hazards.md: Reset is the only way out of Halted and NotReset. -/

namespace Sys2Proof.Machine

/-- Of the host operations only Reset writes the run state. -/
theorem State.host_run (s : State) {op : HostOp} (h : op ≠ .reset) : (s.host op).run = s.run := by
  cases op with
  | reset => exact absurd rfl h
  | write | setFlag | setA | setX | setY | setSP | setPC | requestNmi | setIrq => rfl

/-- R292: outside Running an event that is no Reset leaves the run state, a step because it answers no next state. -/
theorem State.event_run {s : State} {e : Event} (hr : s.run ≠ .running) (he : e ≠ .host .reset) :
    (s.event e).run = s.run := by
  cases e with
  | step => rw [State.event_step_of_ne_running hr]
  | host op => exact s.host_run fun hop => he (congrArg Event.host hop)

/-- Settles O50: event by event, the run state stays what it was and so stays outside Running. -/
theorem onlyResetLeavesHaltedOrNotReset : Obligations.OnlyResetLeavesHaltedOrNotReset := by
  unfold Obligations.OnlyResetLeavesHaltedOrNotReset
  refine ⟨fun s => ⟨s.hostReset_run, s.hostReset_nmiPending⟩, fun s es hr hes => ?_⟩
  have hkeep : ∀ u : State, u.run = s.run → ∀ e ∈ es, (u.event e).run = s.run :=
    fun u hu e he => (State.event_run (hu ▸ hr) (hes e he)).trans hu
  exact List.foldlRecOn (motive := fun u : State => u.run = s.run) es State.event rfl hkeep

end Sys2Proof.Machine
end
